-- ==== Sys2Proof/Word.lean ====
section
/-! DEFINITION. The word types of the block: bytes, tile words, bank registers, border values, the tick counter, the budget. -/

namespace Sys2Proof

/-- A stream or tile byte (00_scope R4). -/
abbrev Byte := BitVec 8

/-- A frame-buffer cell, `TILE_WORD_BITS` = 16 bits (40_codec R88). That no profile varies it: DESIGN CHOICE, log 17. -/
abbrev TileWord := BitVec 16

/-- A bank register, `BANK_BITS` = 8 bits (10_state R12, R15). That no profile varies it: DESIGN CHOICE, log 17. -/
abbrev Bank := BitVec 8

/-- A border configuration value, `BORDER_BITS` = 8 bits (10_state R22). That no profile varies it: DESIGN CHOICE, log 17. -/
abbrev Border := BitVec 8

/-- The tick counter, `TICK_BITS` = 16 bits (10_state R18). That no profile varies it: DESIGN CHOICE, log 17. -/
abbrev Tick := BitVec 16

/-- The frame timing budget, `BUDGET_BITS` = 3 bits (10_state R17). -/
abbrev Budget := BitVec 3

end Sys2Proof
end

