-- ==== Sys2Proof/Config.lean ====
section
/-! DEFINITION. What an implementation fixes: the format profile (00_scope R2), the reference profiles P2 and P4, the
launch parameters (70_reset R185), and the constants without a body that stand for values the spec leaves OPEN. -/

namespace Sys2Proof

/-- Bits `hi..lo` of window byte `byte` (40_codec R81). -/
structure Slice where
  byte : Nat
  hi : Nat
  lo : Nat
deriving DecidableEq, Repr

/-- A layout of one field: its slices, the first the most significant (40_codec R81). -/
abbrev FieldLayout := List Slice

/-- The `LAYOUT` field of a profile: table K-1 of 40_codec. The layout of EOF's budget is not here, because the
source fixes it for every profile (30_encoding R64(b), 40_codec R87). -/
structure Layout where
  aPos : FieldLayout
  aTile : FieldLayout
  aBank : FieldLayout
  aOff : FieldLayout
  bPos : FieldLayout
  bTile : FieldLayout
  mTile : FieldLayout
deriving DecidableEq, Repr

/-- The classes of 30_encoding table E-1. The three reserved rows of the table are kept apart. -/
inductive OpClass where
  | placeA
  | placeB
  | put
  | bank
  | borderA
  | borderB
  | endStream
  | endFrame
  | reservedC0
  | reservedE0
  | reservedF4
deriving DecidableEq, Repr

/-- One row of an opcode map: the bytes `b0` with `b0 &&& mask = pattern` (30_encoding table E-1). -/
structure OpRow where
  pattern : Byte
  mask : Byte
  cls : OpClass
deriving DecidableEq, Repr

/-- A format profile (00_scope R2): opcode numbering, bit layouts, cursor-stride rule and asset geometry. The widths
`BANK_BITS`, `TILE_WORD_BITS`, `TICK_BITS` and `BORDER_BITS` and the value `EMPTY_CELL` of 00_scope section 4 are no field
of it: one value for every profile. DESIGN CHOICE, log 17. `POS_BITS` is no field either: each position layout has its own
width. DESIGN CHOICE, log 20. -/
structure Profile where
  /-- `OPMAP` -/
  opmap : List OpRow
  /-- `LAYOUT` -/
  layout : Layout
  /-- `ASSET_OFFSET_BITS` -/
  assetOffsetBits : Nat
  /-- `TILE_BYTES` -/
  tileBytes : Nat
  /-- `BANK_SIZE` -/
  bankSize : Nat
  /-- `FB_PITCH` -/
  fbPitch : Nat
  /-- `FB_ROWS` -/
  fbRows : Nat
  /-- `ROW_LAST_COL` -/
  rowLastCol : Nat
  /-- `ROW_SKIP` -/
  rowSkip : Nat
  /-- `STRIDE_A` -/
  strideA : Nat
  /-- `STRIDE_B` -/
  strideB : Nat
  /-- `STRIDE_M` -/
  strideM : Nat
  /-- `CURSOR_START` -/
  cursorStart : Nat
  /-- `TILE_INDEX_BITS` -/
  tileIndexBits : Nat
  /-- `TILE_SLOTS` -/
  tileSlots : Nat
deriving DecidableEq, Repr

/-- `FB_CELLS = FB_PITCH * FB_ROWS` (00_scope section 4: derived). -/
abbrev Profile.fbCells (p : Profile) : Nat := p.fbPitch * p.fbRows

/-- The reference opcode map, row by row (30_encoding table E-1). -/
def referenceOpmap : List OpRow :=
  [ ⟨0x00, 0xC0, .placeA⟩, ⟨0x40, 0xC0, .placeB⟩, ⟨0x80, 0xC0, .put⟩,
    ⟨0xC0, 0xE0, .reservedC0⟩, ⟨0xE0, 0xF0, .reservedE0⟩,
    ⟨0xF0, 0xFF, .bank⟩, ⟨0xF1, 0xFF, .borderA⟩, ⟨0xF2, 0xFF, .borderB⟩, ⟨0xF3, 0xFF, .endStream⟩,
    ⟨0xF4, 0xFC, .reservedF4⟩, ⟨0xF8, 0xF8, .endFrame⟩ ]

/-- The P2 column of 40_codec table K-1. -/
def layoutP2 : Layout where
  aPos := [⟨0, 5, 0⟩, ⟨1, 7, 4⟩]
  aTile := [⟨1, 3, 0⟩, ⟨2, 7, 0⟩]
  aBank := [⟨3, 7, 4⟩]
  aOff := [⟨3, 3, 0⟩, ⟨4, 7, 0⟩]
  bPos := [⟨0, 5, 0⟩, ⟨1, 7, 4⟩]
  bTile := [⟨1, 3, 0⟩, ⟨2, 7, 0⟩]
  mTile := [⟨0, 5, 0⟩, ⟨1, 7, 0⟩]

/-- The P4 column of 40_codec table K-1: P2's, but for the split of the asset word (40_codec R91). -/
def layoutP4 : Layout :=
  { layoutP2 with aBank := [⟨3, 7, 3⟩], aOff := [⟨3, 2, 0⟩, ⟨4, 7, 0⟩] }

/-- Reference profile P2 (00_scope section 4). -/
def profileP2 : Profile where
  opmap := referenceOpmap
  layout := layoutP2
  assetOffsetBits := 12
  tileBytes := 16
  bankSize := 65536
  fbPitch := 32
  fbRows := 32
  rowLastCol := 23
  rowSkip := 9
  strideA := 1
  strideB := 1
  strideM := 1
  cursorStart := 0
  tileIndexBits := 9
  tileSlots := 512

/-- Reference profile P4 (00_scope section 4; 40_codec R91: it differs from P2 in `OB` and `TILE_BYTES` only). -/
def profileP4 : Profile :=
  { profileP2 with layout := layoutP4, assetOffsetBits := 11, tileBytes := 32 }

/-- The two reference profiles, the options in scope (00_scope section 1). -/
abbrev Profile.isReference (p : Profile) : Prop := p = profileP2 ∨ p = profileP4

/-- The bodyless constants below stand for OPEN parameters (00_scope section 4), so nothing can be proved of a value
the spec does not give. DESIGN CHOICE, safe: log 2. -/
opaque Config.borderA : Border

/-- `BORDER_B`, OPEN. DESIGN CHOICE, safe: log 2. -/
opaque Config.borderB : Border

/-- `BORDER_RESET`, OPEN. DESIGN CHOICE, safe: log 2. -/
opaque Config.borderReset : Border

/-- `FB_BASE[0]`, OPEN. DESIGN CHOICE, safe: log 2. -/
opaque Config.fbBase0 : Nat

/-- `FB_BASE[1]`, OPEN. DESIGN CHOICE, safe: log 2. -/
opaque Config.fbBase1 : Nat

/-- `TILE_BASE`, OPEN. DESIGN CHOICE, safe: log 2. -/
opaque Config.tileBase : Nat

/-- `TICK_HZ`, OPEN (60_exceptions R171). DESIGN CHOICE, safe: log 2. -/
opaque Config.tickHz : Nat

/-- `ROM_ALIAS`, OPEN (20_memory R43). DESIGN CHOICE, safe: log 2. -/
opaque Config.romAlias : Bool

/-- The value `TICK - BUDGET` would leave where `TICK < BUDGET`, a case no run reaches (43_flip_governor R149) and
to which the spec gives no value: a free value. DESIGN CHOICE, safe: log 9. -/
opaque Config.tickUnderflow : Tick → Budget → Tick

/-- `EMPTY_CELL` (00_scope section 4): every cell of both buffers at reset. One value for every profile: DESIGN CHOICE,
log 17. -/
def Config.emptyCell : TileWord := 0x0000

/-- `2^BANK_BITS - 1`, the top bank (42_stream_control R128, 41_placement R110), with `BANK_BITS` = 8 in every profile:
DESIGN CHOICE, log 17. -/
def Config.topBank : Nat := 255

/-- The launch parameters the Host supplies before reset is released (70_reset R185): the profile and every OPEN
parameter of 00_scope section 4. They are constant for the run (10_state R10). -/
structure Launch where
  prof : Profile
  /-- `CMD_BANK_START` -/
  cmdBankStart : Bank
  /-- `CMD_OFF_START` -/
  cmdOffStart : Nat
  /-- `ASSET_BANK_BASE`; the spec gives it no width or range, and any natural number is taken: DESIGN CHOICE, log 22 -/
  assetBankBase : Nat
  /-- `BORDER_A` -/
  borderA : Border
  /-- `BORDER_B` -/
  borderB : Border
  /-- `BORDER_RESET` -/
  borderReset : Border
  /-- `FB_BASE[0]`, read by the Display's byte view only (20_memory R45) -/
  fbBase0 : Nat
  /-- `FB_BASE[1]` -/
  fbBase1 : Nat
  /-- `TILE_BASE`; no rule reads it (93 S5) -/
  tileBase : Nat
  /-- `TICK_HZ`; no rule reads it (93 S6) -/
  tickHz : Nat
  /-- `ROM_ALIAS`; no rule reads it (93 S4) -/
  romAlias : Bool
deriving DecidableEq, Repr

/-- The example launch values of 95_test_vectors' preamble: P2, command start (0, 0), asset bank base 0x10, borders
left symbolic. DESIGN CHOICE, unsafe if read as the chip's own: logs 1 and 2. -/
def Launch.sample : Launch where
  prof := profileP2
  cmdBankStart := 0
  cmdOffStart := 0
  assetBankBase := 0x10
  borderA := Config.borderA
  borderB := Config.borderB
  borderReset := Config.borderReset
  fbBase0 := Config.fbBase0
  fbBase1 := Config.fbBase1
  tileBase := Config.tileBase
  tickHz := Config.tickHz
  romAlias := Config.romAlias

end Sys2Proof
end

