-- ==== Sys2Proof/Syntax.lean ====
section
/-! DEFINITION. The instructions of BAWS-CS, one constructor per row of spec/opcode_table.json. -/

namespace Sys2Proof

/-- The instructions (30_encoding table E-1). An operand is an unsigned number whose width the profile's `LAYOUT`
fixes (30_encoding R65); `WellFormed` states its range. -/
inductive Instr where
  /-- PLA: fetch an asset tile and place it (41_placement R106). -/
  | pla (pos tile abank aoff : Nat)
  /-- PLB: place a tile at an absolute position (41_placement R103). -/
  | plb (pos tile : Nat)
  /-- PUT: place a tile at the cursor (41_placement R104). -/
  | put (tile : Nat)
  /-- BANK: switch the command bank (42_stream_control R127). -/
  | bank
  /-- BORDA: set the pending border to `BORDER_A` (42_stream_control R129). -/
  | borda
  /-- BORDB: set the pending border to `BORDER_B` (42_stream_control R130). -/
  | bordb
  /-- EOS: end of stream (42_stream_control R132). -/
  | eos
  /-- EOF: end of frame with budget `k` (42_stream_control R131). -/
  | eof (k : Budget)
  /-- (reserved), the table's row 0xC0 / 0xE0 (42_stream_control R133); `b0` is the opcode byte. -/
  | reservedC0 (b0 : Byte)
  /-- (reserved), the table's row 0xE0 / 0xF0. -/
  | reservedE0 (b0 : Byte)
  /-- (reserved), the table's row 0xF4 / 0xFC. -/
  | reservedF4 (b0 : Byte)
deriving DecidableEq, Repr

end Sys2Proof
end

