-- ==== Sys2Proof/Decode.lean ====
section
/-! DEFINITION. The bit-field codec (40_codec): class selection, field extraction, the total decoder, and the encoder
written from the same tables. -/

namespace Sys2Proof

/-! ## Class selection -/

/-- `classOf(prof, b0)`: the class of the first row of `OPMAP` that `b0` matches (40_codec R82). A byte that no row
matches occurs under no profile the spec admits (30_encoding R63) and is taken as reserved. -/
def classOf (p : Profile) (b0 : Byte) : OpClass :=
  match p.opmap.find? (fun r => b0 &&& r.mask == r.pattern) with
  | some r => r.cls
  | none => .reservedF4

/-- The operand byte count of a class (30_encoding R60, R64(a)). -/
def operandCount : OpClass → Nat
  | .placeA => 4
  | .placeB => 2
  | .put => 1
  | .bank => 0
  | .borderA => 0
  | .borderB => 0
  | .endStream => 0
  | .endFrame => 0
  | .reservedC0 => 0
  | .reservedE0 => 0
  | .reservedF4 => 0

/-! ## Fields -/

/-- Width of a slice, `h - l + 1`. -/
def sliceWidth (sl : Slice) : Nat := sl.hi + 1 - sl.lo

/-- Width of a field: the sum over its slices (40_codec R81). -/
def fieldWidth : FieldLayout → Nat
  | [] => 0
  | sl :: rest => sliceWidth sl + fieldWidth rest

/-- `b[h:l]` (00_scope R4). -/
def sliceBits (b : Byte) (sl : Slice) : Nat := b.toNat / 2 ^ sl.lo % 2 ^ sliceWidth sl

/-- Window byte `b_i`; the windows the Engine builds hold every byte a layout names. -/
def windowByte (W : List Byte) (i : Nat) : Byte := W.getD i 0

/-- `extract(W, layout)`: the slices concatenated, the first the most significant (40_codec R81, 00_scope R5). -/
def extract (W : List Byte) : FieldLayout → Nat
  | [] => 0
  | sl :: rest => sliceBits (windowByte W sl.byte) sl * 2 ^ fieldWidth rest + extract W rest

/-- EOF's budget, `b0 & 0x7` in every profile (40_codec R87, 30_encoding R64(b)). -/
def budgetOf (b0 : Byte) : Budget := b0.setWidth 3

/-! ## The decoder -/

/-- Why a byte list is no instruction. -/
inductive DecodeError where
  /-- The list is empty. -/
  | noOpcode
  /-- The class's operand bytes are not all there. -/
  | missingOperands (cls : OpClass)
deriving DecidableEq, Repr

/-- `decode(prof, W)` for a whole window `W` of class `cls` (40_codec R90). -/
def decodeWindow (p : Profile) (cls : OpClass) (W : List Byte) : Instr :=
  match cls with
  | .placeA => .pla (extract W p.layout.aPos) (extract W p.layout.aTile) (extract W p.layout.aBank) (extract W p.layout.aOff)
  | .placeB => .plb (extract W p.layout.bPos) (extract W p.layout.bTile)
  | .put => .put (extract W p.layout.mTile)
  | .bank => .bank
  | .borderA => .borda
  | .borderB => .bordb
  | .endStream => .eos
  | .endFrame => .eof (budgetOf (windowByte W 0))
  | .reservedC0 => .reservedC0 (windowByte W 0)
  | .reservedE0 => .reservedE0 (windowByte W 0)
  | .reservedF4 => .reservedF4 (windowByte W 0)

/-- The decoder, total on any bytes (30_encoding R67): the instruction at the head of the list and the bytes after
it, or the name of what is missing. -/
def decode (p : Profile) : List Byte → Except DecodeError (Instr × List Byte)
  | [] => .error .noOpcode
  | b0 :: rest =>
    let cls := classOf p b0
    if rest.length < operandCount cls then .error (.missingOperands cls)
    else .ok (decodeWindow p cls (b0 :: rest.take (operandCount cls)), rest.drop (operandCount cls))

/-! ## The encoder -/

/-- The class an instruction belongs to (30_encoding table E-1). -/
def classOfInstr : Instr → OpClass
  | .pla _ _ _ _ => .placeA
  | .plb _ _ => .placeB
  | .put _ => .put
  | .bank => .bank
  | .borda => .borderA
  | .bordb => .borderB
  | .eos => .endStream
  | .eof _ => .endFrame
  | .reservedC0 _ => .reservedC0
  | .reservedE0 _ => .reservedE0
  | .reservedF4 _ => .reservedF4

/-- All 256 opcode bytes. -/
def allBytes : List Byte := (List.range 256).map (BitVec.ofNat 8)

/-- The least opcode byte of a class under the profile's `OPMAP`, the one whose operand bits are 0: for a fixed code, its one
code (30_encoding R64(d)). For a class that another profile spreads over several rows the spec gives no encoding, and every
instruction of the class is encoded on this byte: DESIGN CHOICE, log 21. -/
def opcodePattern (p : Profile) (cls : OpClass) : Byte := (allBytes.find? (fun b => classOf p b == cls)).getD 0

/-- The opcode byte of EOF `k`: the one EOF code with `b0 & 0x7 = k` (30_encoding R64(b)), wherever the profile's rows put
it. `boot` refuses a profile without one; the byte is 0 there: DESIGN CHOICE, log 21. -/
def eofOpcode (p : Profile) (k : Budget) : Byte :=
  (allBytes.find? (fun b => classOf p b == .endFrame && budgetOf b == k)).getD 0

/-- Add `v`, shifted to bit `lo`, into window byte `i`. Under a layout that uses no bit twice (40_codec R92) this
sets that slice's bits. -/
def addToByte (W : List Byte) (i lo v : Nat) : List Byte :=
  W.set i (windowByte W i + BitVec.ofNat 8 (v * 2 ^ lo))

/-- Put the field value `v` into a window whose bits of that field are clear: the inverse of `extract`. -/
def deposit : FieldLayout → Nat → List Byte → List Byte
  | [], _, W => W
  | sl :: rest, v, W =>
    deposit rest v (addToByte W sl.byte sl.lo (v / 2 ^ fieldWidth rest % 2 ^ sliceWidth sl))

/-- A window of the class's length that holds its fixed bits and zeros. -/
def blankWindow (p : Profile) (cls : OpClass) : List Byte :=
  opcodePattern p cls :: List.replicate (operandCount cls) 0

/-- The bytes of an instruction, in stream order (30_encoding R62). The spec gives encodings for the reference map; under
another profile PLA, PLB and PUT are encoded on their class's least opcode (DESIGN CHOICE, log 21). -/
def encode (p : Profile) : Instr → List Byte
  | .pla pos tile abank aoff =>
    deposit p.layout.aOff aoff (deposit p.layout.aBank abank
      (deposit p.layout.aTile tile (deposit p.layout.aPos pos (blankWindow p .placeA))))
  | .plb pos tile => deposit p.layout.bTile tile (deposit p.layout.bPos pos (blankWindow p .placeB))
  | .put tile => deposit p.layout.mTile tile (blankWindow p .put)
  | .bank => blankWindow p .bank
  | .borda => blankWindow p .borderA
  | .bordb => blankWindow p .borderB
  | .eos => blankWindow p .endStream
  | .eof k => [eofOpcode p k]
  | .reservedC0 b0 => [b0]
  | .reservedE0 b0 => [b0]
  | .reservedF4 b0 => [b0]

/-! ## Scenario notation (30_encoding R69) -/

/-- `midRangeOpcode(tileData=t)` expands to `PUT t`. -/
def midRangeOpcode (t : Nat) : Instr := .put t

/-- `endOfFrame(k=n)` expands to `EOF n`. -/
def endOfFrame (n : Budget) : Instr := .eof n

/-- `endOfStream` expands to `EOS`. -/
def endOfStream : Instr := .eos

/-! ## The table's numbering -/

/-- The longest instruction, PLA, has 5 bytes (30_encoding R60). -/
def longestInstr : Nat := 5

/-- The bytes of an instruction given as one number: byte `i` is bits `8i+7..8i`, and bits at `nbits` and above are 0. -/
def tableBytes (nbits w : Nat) : List Byte :=
  (List.range longestInstr).map (fun i => BitVec.ofNat 8 (w % 2 ^ nbits / 2 ^ (8 * i)))

/-- The instruction the decoder reads from the bits `w`, under the profile of `State.reset` (log 1). -/
def decodeTableWord (nbits w : Nat) : Option Instr :=
  match decode Launch.sample.prof (tableBytes nbits w) with
  | .ok (i, _) => some i
  | .error _ => none

end Sys2Proof
end

