-- ==== Sys2Proof/Machine/State.lean ====
section
/-! DEFINITION. The block's state (10_state R10), as plain data, and its value at reset (70_reset R180). -/

namespace Sys2Proof.Machine

/-- `PHASE` (10_state R11). -/
inductive Phase where
  | decoding
  | waiting
  | consuming
  | flipping
  | done
  | hostWaiting
  | hostConsuming
  | faulted
deriving DecidableEq, Repr

/-- `SIGNAL` (10_state R27): the result of the last frame decode. -/
inductive Signal where
  | none
  | moreFrames
  | streamDone
deriving DecidableEq, Repr

/-- The two frame buffers: the values of the 1-bit `CUR_SEL` and `DISP_ACTIVE` (10_state R21, R23). -/
inductive BufSel where
  | fb0
  | fb1
deriving DecidableEq, Repr

/-- The fault codes of 60_exceptions table X-1. -/
inductive FaultCode where
  /-- 1: a reserved opcode (42 R133). -/
  | reservedOpcode
  /-- 2: a byte of the instruction lies at or past `BANK_SIZE` (42 R121). -/
  | cmdPastBank
  /-- 3: the command ROM holds no such byte (42 R121). -/
  | cmdMissing
  /-- 4: BANK in the top bank (42 R128). -/
  | cmdBankRange
  /-- 5: a cell write at or past `FB_CELLS` (41 R100). -/
  | posRange
  /-- 6: the asset bank is past the top bank (41 R110). -/
  | assetBankRange
  /-- 7: the tile slot is past tile memory (41 R110). -/
  | slotRange
  /-- 8: the asset ROM lacks a byte of the block (41 R110). -/
  | assetMissing
  /-- 9: a read of an optional register at `none` (10 R34). -/
  | unwritten
deriving DecidableEq, Repr

/-- A fault record `(code, bank, off, op)` (10_state R28): `op` is the opcode byte if it was read. -/
structure FaultRecord where
  code : FaultCode
  bank : Bank
  off : Nat
  op : Option Byte
deriving DecidableEq, Repr

/-- One turn of an agent, an entry of the model's own `agenda` (log 4). -/
inductive Turn where
  /-- The Engine's turn (42 R120, 43 R140). -/
  | engine
  /-- A tick occurs at the TickSource (60 R163, R164). -/
  | tick
  /-- The TickSource's delivery step (60 R165). -/
  | deliver
  /-- The Host asks for a wait of `k` ticks (43 R152). -/
  | hostWait (k : Nat)
  /-- The Host applies reset (70 R183). -/
  | hostReset
deriving DecidableEq, Repr

/-- A sparse store: (address, value) pairs, addresses strictly rising. `Store 8` is a list of `Host.Cell`. -/
abbrev Store (w : Nat) := List (Nat × BitVec w)

/-- The address spaces of 20_memory R40. -/
structure Memory where
  /-- The command ROM at linear offset `bank * BANK_SIZE + off` (20 R41, R52); unlisted: no byte. -/
  cmdRom : List Host.Cell
  /-- The asset ROM, likewise (20 R42). -/
  assetRom : List Host.Cell
  /-- Tile memory, byte `j` of slot `s` at `s * TILE_BYTES + j` (10 R25); unlisted: no known byte (log 12). -/
  tile : List Host.Cell
  /-- `FB[0]` by cell index (10 R24); unlisted: `EMPTY_CELL`. -/
  fb0 : Store 16
  /-- `FB[1]`, likewise. -/
  fb1 : Store 16
deriving DecidableEq, Repr

/-- The block's state: every register and array of 10_state table S-1, the launch parameters that no step changes
(10_state R10), and the model's own `agenda` (log 4). -/
structure State where
  /-- `PHASE` -/
  phase : Phase
  /-- `CMD_BANK` -/
  cmdBank : Bank
  /-- `CMD_OFF`, in `0..BANK_SIZE` (log 8) -/
  cmdOff : Nat
  /-- `ASSET_BANK`, `none` until the first PLA -/
  assetBank : Option Bank
  /-- `CURSOR`, in `0..FB_CELLS` (log 8) -/
  cursor : Nat
  /-- `BUDGET`, `none` until the first EOF -/
  budget : Option Budget
  /-- `TICK` -/
  tick : Tick
  /-- `TICK_MASKED` -/
  tickMasked : Bool
  /-- `TICK_PENDING` -/
  tickPending : Bool
  /-- `CUR_SEL` -/
  curSel : BufSel
  /-- `PENDING_BORDER` -/
  pendingBorder : Option Border
  /-- `DISP_ACTIVE` -/
  dispActive : BufSel
  /-- `DISP_BORDER` -/
  dispBorder : Border
  /-- `DISPLAY_ONLY` -/
  displayOnly : Bool
  /-- `SIGNAL` -/
  signal : Signal
  /-- `FAULT` -/
  fault : Option FaultRecord
  /-- `HOST_REQ` -/
  hostReq : Option (BitVec 4)
  /-- The ROMs, the frame buffers and tile memory. -/
  mem : Memory
  /-- The turns to come; the model's own field (log 4). -/
  agenda : List Turn
  /-- The launch parameters (70_reset R185; log 3). -/
  launch : Launch
deriving DecidableEq, Repr

/-- Reasons a step stops the machine. The spec's own faults are states of the block (60_exceptions R160) and answer
a next state; this type names the one stop the step function's totality asks for (log 6). -/
inductive Fault where
  /-- Raised by the Engine's Decoding step if the codec finds its window too short. The Engine builds the window
  to the length of its class (42_stream_control R120), so no state reaches it: `step_ne_fault`. Safe. -/
  | shortWindow (why : DecodeError)
deriving DecidableEq, Repr

/-- Reasons a step or a launch is refused. -/
inductive Refusal where
  /-- An instruction without a meaning; no arm of `exec` answers it. Safe. -/
  | notModelled (mnemonic : String)
  /-- Raised by `boot`: the profile breaks an equation of 00_scope R3 or a constraint of 30_encoding R64, the entry
  offset lies outside `CMD_OFF`'s range, or the memory contents outside 20_memory R40 (log 15). Safe. -/
  | launchOutsideSpec
  /-- Raised by a `hostWait` turn: the Host asks outside Done, with a request outstanding, or with `k > 7`
  (43_flip_governor R152, 93 S9; log 11). Safe. -/
  | hostWaitRefused
deriving DecidableEq, Repr

/-- The state right after reset of a block with launch parameters `l` and the given memory contents
(70_reset R180): both buffers `EMPTY_CELL` everywhere. -/
def State.resetWith (l : Launch) (cmdRom assetRom tile : List Host.Cell) : State where
  phase := .decoding
  cmdBank := l.cmdBankStart
  cmdOff := l.cmdOffStart
  assetBank := none
  cursor := l.prof.cursorStart
  budget := none
  tick := 0
  tickMasked := false
  tickPending := false
  curSel := .fb0
  pendingBorder := none
  dispActive := .fb0
  dispBorder := l.borderReset
  displayOnly := false
  signal := .none
  fault := none
  hostReq := none
  mem := { cmdRom := cmdRom, assetRom := assetRom, tile := tile, fb0 := [], fb1 := [] }
  agenda := []
  launch := l

/-- The block right after reset, launched with the example values of 95_test_vectors (logs 1, 2), with nothing
listed in any memory (log 13). -/
def State.reset : State := State.resetWith Launch.sample [] [] []

end Sys2Proof.Machine
end

