-- ==== Sys2Proof/Machine/Flags.lean ====
section
/-! DEFINITION. The block has no condition codes (10_state R31); its status registers `SIGNAL` and `DISPLAY_ONLY` play the part of flags. These are
the only operations that write them. -/

namespace Sys2Proof.Machine

/-- EOF: `SIGNAL <- MoreFrames` (42_stream_control R131). -/
def signalMoreFrames (s : State) : State := { s with signal := .moreFrames }

/-- EOS: `DISPLAY_ONLY <- 1`, `SIGNAL <- StreamDone` (42_stream_control R132). -/
def signalStreamDone (s : State) : State := { s with displayOnly := true, signal := .streamDone }

/-- beginFrame: `SIGNAL <- None` (43_flip_governor R147). -/
def clearSignal (s : State) : State := { s with signal := .none }

end Sys2Proof.Machine
end

