-- ==== Sys2Proof/Machine/Operands.lean ====
section
/-! DEFINITION. The operand forms: what a decoded field means to an instruction (40_codec R86, R88, R89; 41_placement R101, R102, R109). -/

namespace Sys2Proof.Machine

/-- `tw = zext_16(tile)` (40_codec R88). -/
def tileWord (tile : Nat) : TileWord := BitVec.ofNat 16 tile

/-- `tileIndex(tw) = tw[TILE_INDEX_BITS-1:0]` (40_codec R88); with `TILE_INDEX_BITS` above 16, the whole word: DESIGN CHOICE,
log 19. -/
def tileIndex (p : Profile) (tw : TileWord) : Nat := tw.toNat % 2 ^ p.tileIndexBits

/-- `attr(tw)`: the bits above the tile index (40_codec R88), none where it takes the whole word (DESIGN CHOICE,
log 19); the block does not interpret them. -/
def tileAttr (p : Profile) (tw : TileWord) : Nat := tw.toNat / 2 ^ p.tileIndexBits

/-- `abyte = aoff * TILE_BYTES`: the byte offset of a tile block in its asset bank (40_codec R86). -/
def assetByteOffset (p : Profile) (aoff : Nat) : Nat := aoff * p.tileBytes

/-- The observable triple of the golden vectors (40_codec R89): position, tile index, attribute bits. -/
def placementTriple (p : Profile) (pos tile : Nat) : Nat × Nat × Nat :=
  (pos, tileIndex p (tileWord tile), tileAttr p (tileWord tile))

/-- `advance1(c)`: one stride-1 cursor step with the row-boundary skip (41_placement R101). -/
def advance1 (p : Profile) (c : Nat) : Nat :=
  if c % p.fbPitch = p.rowLastCol then c + p.rowSkip else c + 1

/-- `advanceBy(c, s)`: `advance1` applied `s` times (41_placement R102). -/
def advanceBy (p : Profile) (c : Nat) : Nat → Nat
  | 0 => c
  | n + 1 => advance1 p (advanceBy p c n)

end Sys2Proof.Machine
end

