-- ==== Sys2Proof/Machine/Ops.lean ====
section
/-! DEFINITION. The named operations over memory and registers that the meanings share: sparse stores, the five address
spaces, command fetch, cell writes, the tile fetch, and taking a fault. -/

namespace Sys2Proof.Machine

/-! ## Sparse stores -/

/-- The value listed at `a`, if any. -/
def Store.read {w : Nat} : Store w → Nat → Option (BitVec w)
  | [], _ => none
  | (b, v) :: m, a => if a = b then some v else Store.read m a

/-- List `v` at `a`, keeping addresses rising. -/
def Store.write {w : Nat} : Store w → Nat → BitVec w → Store w
  | [], a, v => [(a, v)]
  | (b, x) :: m, a, v =>
    if a < b then (a, v) :: (b, x) :: m else if a = b then (a, v) :: m else (b, x) :: Store.write m a v

/-- Unlist `a`. -/
def Store.erase {w : Nat} : Store w → Nat → Store w
  | [], _ => []
  | (b, x) :: m, a => if a = b then Store.erase m a else (b, x) :: Store.erase m a

/-- Write consecutive values from `a` on. -/
def Store.writeBlock {w : Nat} (m : Store w) (a : Nat) : List (BitVec w) → Store w
  | [] => m
  | v :: vs => Store.writeBlock (Store.write m a v) (a + 1) vs

/-- Addresses strictly rising. -/
def Store.sorted {w : Nat} : Store w → Bool
  | [] => true
  | (a, _) :: m => m.all (fun c => decide (a < c.1)) && Store.sorted m

/-- Every listed address is below `n`. -/
def Store.below {w : Nat} (n : Nat) (m : Store w) : Bool := m.all (fun c => decide (c.1 < n))

/-! ## Frame-buffer cells: an unlisted cell reads `EMPTY_CELL` -/

/-- `FB[i][c]` (10_state R24). -/
def readCell (m : Store 16) (c : Nat) : TileWord := (Store.read m c).getD Config.emptyCell

/-- `FB[i][c] <- v`: writing `EMPTY_CELL` unlists the cell, so equal buffers are equal lists. -/
def storeCell (m : Store 16) (c : Nat) (v : TileWord) : Store 16 :=
  if v = Config.emptyCell then Store.erase m c else Store.write m c v

/-- The canonical form of a buffer. -/
def cellsCanonical (m : Store 16) : Bool := Store.sorted m && m.all (fun c => decide (c.2 ≠ Config.emptyCell))

/-! ## The memory -/

/-- Every store is in its one canonical form. -/
def Memory.wf (m : Memory) : Bool :=
  Store.sorted m.cmdRom && Store.sorted m.assetRom && Store.sorted m.tile && cellsCanonical m.fb0 && cellsCanonical m.fb1

/-- The bytes of a ROM's address space: `2^BANK_BITS * BANK_SIZE` (20_memory R40). -/
def romSize (p : Profile) : Nat := (Config.topBank + 1) * p.bankSize

/-- Nothing is listed outside the address spaces of 20_memory R40. -/
def Memory.inRange (p : Profile) (m : Memory) : Bool :=
  Store.below (romSize p) m.cmdRom && Store.below (romSize p) m.assetRom &&
    Store.below p.fbCells m.fb0 && Store.below p.fbCells m.fb1 && Store.below (p.tileSlots * p.tileBytes) m.tile

/-- The other buffer, `1 - i` (10_state R21). -/
def BufSel.other : BufSel → BufSel
  | .fb0 => .fb1
  | .fb1 => .fb0

/-- `FB[i]`. -/
def Memory.fb (m : Memory) : BufSel → Store 16
  | .fb0 => m.fb0
  | .fb1 => m.fb1

/-- Replace `FB[i]`. -/
def Memory.setFb (m : Memory) (i : BufSel) (b : Store 16) : Memory :=
  match i with
  | .fb0 => { m with fb0 := b }
  | .fb1 => { m with fb1 := b }

/-- `NEXT = 1 - CUR_SEL` (10_state R21). -/
def nextSel (s : State) : BufSel := s.curSel.other

/-- Cell `c` of buffer `i`, for `c` in `0..FB_CELLS-1` (20_memory R40): every write and the Display's view check the
range. -/
def cellAt (s : State) (i : BufSel) (c : Nat) : TileWord := readCell (s.mem.fb i) c

/-- Byte `j` of tile slot `slot`, if there is such a byte (20_memory R40) and it is known (10_state R25; log 12). -/
def tileByte (s : State) (slot j : Nat) : Option Byte :=
  if slot < s.launch.prof.tileSlots ∧ j < s.launch.prof.tileBytes then
    Store.read s.mem.tile (slot * s.launch.prof.tileBytes + j)
  else none

/-- The linear ROM offset of a stream byte (20_memory R52). -/
def linearOffset (p : Profile) (bank off : Nat) : Nat := bank * p.bankSize + off

/-- The byte a ROM holds at `(bank, off)`; none outside `bank < 2^BANK_BITS`, `off < BANK_SIZE` (20_memory R40). -/
def romRead (p : Profile) (rom : List Host.Cell) (bank off : Nat) : Option Byte :=
  if bank ≤ Config.topBank ∧ off < p.bankSize then Store.read rom (linearOffset p bank off) else none

/-- `CmdRead(bank, off)` (20_memory R41). -/
def cmdRead (s : State) (bank : Bank) (off : Nat) : Option Byte := romRead s.launch.prof s.mem.cmdRom bank.toNat off

/-- `AssetRead(bank, off)` (20_memory R42). -/
def assetRead (s : State) (bank off : Nat) : Option Byte := romRead s.launch.prof s.mem.assetRom bank off

/-- The `n` asset bytes from `(bank, off)` on, in order, if the ROM holds every one (41_placement R110, check 3). -/
def assetBytes (s : State) (bank off : Nat) : Nat → Option (List Byte)
  | 0 => some []
  | n + 1 =>
    match assetRead s bank off, assetBytes s bank (off + 1) n with
    | some b, some bs => some (b :: bs)
    | _, _ => none

/-- The tile block an asset bank and offset name (41_placement R105): `TILE_BYTES` bytes from `aoff * TILE_BYTES`. -/
def assetBlock (s : State) (bank aoff : Nat) : Option (List Byte) :=
  assetBytes s bank (assetByteOffset s.launch.prof aoff) s.launch.prof.tileBytes

/-! ## Taking a fault, and leaving it -/

/-- The byte at the instruction address: `b0` if it could be read, else `none` (60_exceptions R160; log 7). -/
def opcodeByte (s : State) : Option Byte := cmdRead s s.cmdBank s.cmdOff

/-- `raise Fault(code, ia)` with the record's `op` (60_exceptions R160): `FAULT` and `PHASE` change, and nothing
else. There is no vector, no handler and no return (R161); only `hostReset` leaves the phase. -/
def raiseFault (code : FaultCode) (op : Option Byte) (s : State) : State :=
  { s with fault := some ⟨code, s.cmdBank, s.cmdOff, op⟩, phase := .faulted }

/-- A fault raised while an instruction at the current position is fetched or executed. -/
def raiseAtInstr (code : FaultCode) (s : State) : State := raiseFault code (opcodeByte s) s

/-- The outcome of an instruction that began in `s`: its effect, or a precise fault of `s` itself
(42_stream_control R120, 60_exceptions R160). -/
def settle (s : State) : Except FaultCode State → Host.Outcome State Fault Refusal
  | .ok t => .next t
  | .error code => .next (raiseAtInstr code s)

/-- The Host applies reset (70_reset R180, R183): every element of the table takes its value in one step. The ROMs
and the launch parameters are constant (10_state R10), tile memory is left alone (R183), and the agenda is the
model's own (log 16). -/
def hostReset (s : State) : State :=
  { State.resetWith s.launch s.mem.cmdRom s.mem.assetRom s.mem.tile with agenda := s.agenda }

/-! ## Command fetch -/

/-- `readCmd(i)`: the byte `i` places after the opcode, in the current command bank (42_stream_control R121). -/
def readCmd (s : State) (i : Nat) : Except FaultCode Byte :=
  if s.launch.prof.bankSize ≤ s.cmdOff + i then .error .cmdPastBank
  else
    match cmdRead s s.cmdBank (s.cmdOff + i) with
    | some b => .ok b
    | none => .error .cmdMissing

/-- The `n` operand bytes from place `i` on, in order; the first that cannot be read gives the fault
(42_stream_control R124). -/
def readOperands (s : State) (i : Nat) : Nat → Except FaultCode (List Byte)
  | 0 => .ok []
  | n + 1 =>
    match readCmd s i with
    | .error code => .error code
    | .ok b =>
      match readOperands s (i + 1) n with
      | .error code => .error code
      | .ok bs => .ok (b :: bs)

/-- The operand window `W = [b0, ..., bn]` (40_codec R80, 42_stream_control R120). A reserved opcode has no operand
byte, so its window is `[b0]` and its fault precedes any operand read. -/
def fetchWindow (s : State) : Except FaultCode (List Byte) :=
  match readCmd s 0 with
  | .error code => .error code
  | .ok b0 =>
    match readOperands s 1 (operandCount (classOf s.launch.prof b0)) with
    | .error code => .error code
    | .ok bs => .ok (b0 :: bs)

/-- `CMD_OFF <- CMD_OFF + 1 + n` for an instruction of class `cls` (42_stream_control R120). -/
def advanceOff (cls : OpClass) (s : State) : State := { s with cmdOff := s.cmdOff + (1 + operandCount cls) }

/-! ## Writing cells and tiles -/

/-- `CURSOR <- c`. -/
def moveCursor (c : Nat) (s : State) : State := { s with cursor := c }

/-- `FB[NEXT][c] <- tw` (41_placement R100). -/
def writeNextCell (c : Nat) (tw : TileWord) (s : State) : State :=
  { s with mem := s.mem.setFb (nextSel s) (storeCell (s.mem.fb (nextSel s)) c tw) }

/-- `placeCell(c, tw)`, then `CURSOR <- advanceBy(c, stride)` (41_placement R100, R102). -/
def placeAndAdvance (c : Nat) (tw : TileWord) (stride : Nat) (s : State) : Except FaultCode State :=
  if s.launch.prof.fbCells ≤ c then .error .posRange
  else .ok (moveCursor (advanceBy s.launch.prof c stride) (writeNextCell c tw s))

/-- `fetchTile` once its block is known to exist (41_placement R107): the asset bank register is set and the block
copied into the slot; the command bank register is saved before and restored after. -/
def fetchTile (bank slot : Nat) (block : List Byte) (s : State) : State :=
  let saved := s.cmdBank
  let fetched : State :=
    { s with
      assetBank := some (BitVec.ofNat 8 bank)
      mem := { s.mem with tile := Store.writeBlock s.mem.tile (slot * s.launch.prof.tileBytes) block } }
  { fetched with cmdBank := saved }

end Sys2Proof.Machine
end

