-- ==== Sys2Proof/Machine/Control.lean ====
section
/-! DEFINITION. The control codes BANK, BORDA, BORDB, EOF and EOS, and the reserved opcodes (42_stream_control). -/

namespace Sys2Proof.Machine

/-- `CMD_BANK <- CMD_BANK + 1`, `CMD_OFF <- 0`, or the fault of the top bank (42_stream_control R127, R128). -/
def switchBank (s : State) : Except FaultCode State :=
  if s.cmdBank.toNat = Config.topBank then .error .cmdBankRange
  else .ok { s with cmdBank := s.cmdBank + 1, cmdOff := 0 }

/-- **BANK** (42_stream_control R127). -/
def execBank (s : State) : Host.Outcome State Fault Refusal :=
  settle s (switchBank (advanceOff .bank s))

/-- `PENDING_BORDER <- some v` (10_state R22). -/
def setPendingBorder (v : Border) (s : State) : State := { s with pendingBorder := some v }

/-- **BORDA** (42_stream_control R129). -/
def execBorda (s : State) : Host.Outcome State Fault Refusal :=
  .next (setPendingBorder s.launch.borderA (advanceOff .borderA s))

/-- **BORDB** (42_stream_control R130). -/
def execBordb (s : State) : Host.Outcome State Fault Refusal :=
  .next (setPendingBorder s.launch.borderB (advanceOff .borderB s))

/-- EOF's registers but `SIGNAL`: `BUDGET <- some k`, `PHASE <- Waiting` (42_stream_control R131). -/
def awaitBudget (k : Budget) (s : State) : State := { s with budget := some k, phase := .waiting }

/-- **EOF** `k` (42_stream_control R131). -/
def execEof (k : Budget) (s : State) : Host.Outcome State Fault Refusal :=
  .next (awaitBudget k (signalMoreFrames (advanceOff .endFrame s)))

/-- `PHASE <- Done` (42_stream_control R132). -/
def enterDone (s : State) : State := { s with phase := .done }

/-- **EOS** (42_stream_control R132). -/
def execEos (s : State) : Host.Outcome State Fault Refusal :=
  .next (enterDone (signalStreamDone (advanceOff .endStream s)))

/-- A reserved opcode: `raise Fault(RESERVED_OPCODE, ia)`, `CMD_OFF` not advanced (42_stream_control R133). -/
def raiseReserved (s : State) : Host.Outcome State Fault Refusal := settle s (.error .reservedOpcode)

/-- **(reserved)** 0xC0-0xDF (42_stream_control R133). -/
def execReservedC0 (s : State) : Host.Outcome State Fault Refusal := raiseReserved s

/-- **(reserved)** 0xE0-0xEF (42_stream_control R133). -/
def execReservedE0 (s : State) : Host.Outcome State Fault Refusal := raiseReserved s

/-- **(reserved)** 0xF4-0xF7 (42_stream_control R133). -/
def execReservedF4 (s : State) : Host.Outcome State Fault Refusal := raiseReserved s

end Sys2Proof.Machine
end

