-- ==== Sys2Proof/Machine/Placement.lean ====
section
/-! DEFINITION. The placement instructions PLA, PLB and PUT (41_placement). -/

namespace Sys2Proof.Machine

/-- **PLB** `pos, tile` (41_placement R103). -/
def execPlb (pos tile : Nat) (s : State) : Host.Outcome State Fault Refusal :=
  settle s (placeAndAdvance pos (tileWord tile) s.launch.prof.strideB (advanceOff .placeB s))

/-- **PUT** `tile` (41_placement R104): the cell is the cursor's. -/
def execPut (tile : Nat) (s : State) : Host.Outcome State Fault Refusal :=
  settle s (placeAndAdvance s.cursor (tileWord tile) s.launch.prof.strideM (advanceOff .put s))

/-- PLA's effect with its checks in the order of 41_placement R110; the last check is `placeAndAdvance`'s. -/
def placeFetched (pos tile abank aoff : Nat) (s : State) : Except FaultCode State :=
  let bank := s.launch.assetBankBase + abank
  let slot := tileIndex s.launch.prof (tileWord tile)
  if Config.topBank < bank then .error .assetBankRange
  else if s.launch.prof.tileSlots ≤ slot then .error .slotRange
  else
    match assetBlock s bank aoff with
    | none => .error .assetMissing
    | some block => placeAndAdvance pos (tileWord tile) s.launch.prof.strideA (fetchTile bank slot block s)

/-- **PLA** `pos, tile, abank, aoff` (41_placement R106): the fetched graphic goes to the slot the tile word names
(R109). -/
def execPla (pos tile abank aoff : Nat) (s : State) : Host.Outcome State Fault Refusal :=
  settle s (placeFetched pos tile abank aoff (advanceOff .placeA s))

end Sys2Proof.Machine
end

