-- ==== Sys2Proof/Machine/Dispatch.lean ====
section
/-! DEFINITION. `exec`: the meaning of each instruction (42_stream_control R122), one arm per constructor. -/

namespace Sys2Proof.Machine

def exec (i : Instr) (s : State) : Host.Outcome State Fault Refusal :=
  match i with
  | .pla pos tile abank aoff => Sys2Proof.Machine.execPla pos tile abank aoff s
  | .plb pos tile => Sys2Proof.Machine.execPlb pos tile s
  | .put tile => Sys2Proof.Machine.execPut tile s
  | .bank => Sys2Proof.Machine.execBank s
  | .borda => Sys2Proof.Machine.execBorda s
  | .bordb => Sys2Proof.Machine.execBordb s
  | .eos => Sys2Proof.Machine.execEos s
  | .eof k => Sys2Proof.Machine.execEof k s
  | .reservedC0 _ => Sys2Proof.Machine.execReservedC0 s
  | .reservedE0 _ => Sys2Proof.Machine.execReservedE0 s
  | .reservedF4 _ => Sys2Proof.Machine.execReservedF4 s

end Sys2Proof.Machine
end

