-- ==== Sys2Proof/Machine/Governor.lean ====
section
/-! DEFINITION. The flip controller and the timing governor (43_flip_governor): Waiting, Consuming, Flipping, and the
host waits of Done. -/

namespace Sys2Proof.Machine

/-- `waitReady(k) = (TICK >= k)`, unsigned (43_flip_governor R141). -/
def waitReady (tick : Tick) (k : Budget) : Bool := decide (k.toNat ≤ tick.toNat)

/-- The Waiting step toward critical phase `critical` (43_flip_governor R143): it masks the tick source in the same
step as the test, or holds (R142). A `BUDGET` of `none` is read at fault UNWRITTEN (10_state R34). -/
def waitForBudget (critical : Phase) (s : State) : State :=
  match s.budget with
  | none => raiseFault .unwritten none s
  | some k => if waitReady s.tick k then { s with tickMasked := true, phase := critical } else s

/-- The Waiting step (43_flip_governor R143). -/
def stepWait (s : State) : State := waitForBudget .consuming s

/-- The HostWaiting step (43_flip_governor R153). -/
def stepHostWait (s : State) : State := waitForBudget .hostConsuming s

/-- `TICK - BUDGET`, exact where `TICK >= BUDGET` (43_flip_governor R144). The spec gives no other value, and no run
needs one (R149): a free value there (log 9). -/
def consumedTick (tick : Tick) (k : Budget) : Tick :=
  if waitReady tick k then tick - k.setWidth 16 else Config.tickUnderflow tick k

/-- The Consuming step toward phase `after` (43_flip_governor R144). -/
def consumeBudget (after : Phase) (s : State) : State :=
  match s.budget with
  | none => raiseFault .unwritten none s
  | some k => { s with tick := consumedTick s.tick k, tickMasked := false, phase := after }

/-- The Consuming step (43_flip_governor R144). -/
def stepConsume (s : State) : State := consumeBudget .flipping s

/-- The HostConsuming step (43_flip_governor R153): back to Done, with no flip. -/
def stepHostConsume (s : State) : State := consumeBudget .done s

/-- `flip` (43_flip_governor R146). -/
def flipBuffers (s : State) : State :=
  { s with
    curSel := s.curSel.other
    dispActive := s.curSel.other
    dispBorder := s.pendingBorder.getD s.dispBorder
    pendingBorder := none }

/-- `beginFrame` (43_flip_governor R147): the whole current buffer is cloned into the next one. -/
def beginFrame (s : State) : State :=
  clearSignal (moveCursor s.launch.prof.cursorStart
    { s with mem := s.mem.setFb (nextSel s) (s.mem.fb s.curSel) })

/-- The Flipping step: `flip`, then `beginFrame`, then `PHASE <- Decoding`, as one step (43_flip_governor R145,
90_conflicts C2). -/
def stepFlip (s : State) : State := { beginFrame (flipBuffers s) with phase := .decoding }

/-- The Engine accepts a host wait request (43_flip_governor R152). `k <= 7`, so the budget's 3 bits hold it
(log 11). -/
def stepHostAccept (s : State) : State :=
  match s.hostReq with
  | none => s
  | some k => { s with budget := some (k.setWidth 3), hostReq := none, phase := .hostWaiting }

end Sys2Proof.Machine
end

