-- ==== Sys2Proof/Machine/HostAgent.lean ====
section
/-! DEFINITION. The Host agent: placing a wait request (43_flip_governor R152), and launching the block with parameters
the spec admits (00_scope R3, 30_encoding R64, 70_reset R185). Its reset is `hostReset` in Ops. -/

namespace Sys2Proof.Machine

/-- The Host may place a request `k` in 0..7 while `PHASE = Done` and none is outstanding (43_flip_governor R152);
any other is refused (93 S9, log 11). -/
def hostWait (k : Nat) (s : State) : Host.Outcome State Fault Refusal :=
  if s.phase = .done ∧ s.hostReq = none ∧ k ≤ 7 then .next { s with hostReq := some (BitVec.ofNat 4 k) }
  else .refused .hostWaitRefused

/-- How many opcode bytes satisfy `f`. -/
def countBytes (f : Byte → Bool) : Nat := allBytes.countP f

/-- The equations of 00_scope R3. The last, `ASSET_OFFSET_BITS + log2(TILE_BYTES) = log2(BANK_SIZE)`, is written
without logarithms. Nothing bounds `TILE_INDEX_BITS` by the tile word's 16 bits: DESIGN CHOICE, log 19. -/
def geometryOk (p : Profile) : Bool :=
  p.fbPitch == p.rowLastCol + p.rowSkip && p.tileSlots == 2 ^ p.tileIndexBits &&
    2 ^ p.assetOffsetBits * p.tileBytes == p.bankSize && decide (0 < p.bankSize)

/-- Every opcode byte falls in exactly one row (30_encoding R63). -/
def rowsPartition (p : Profile) : Bool :=
  allBytes.all (fun b => p.opmap.countP (fun r => b &&& r.mask == r.pattern) == 1)

/-- 30_encoding R64(b): the EOF codes are 8 codes whose `b0[2:0]` runs over 0..7. -/
def eofCodesOk (p : Profile) : Bool :=
  countBytes (fun b => classOf p b == .endFrame) == 8 &&
    (List.range 8).all (fun k => countBytes (fun b => classOf p b == .endFrame && b.toNat % 8 == k) == 1)

/-- 30_encoding R64(d): the fixed codes are one code each. -/
def fixedCodesOk (p : Profile) : Bool :=
  [OpClass.bank, .borderA, .borderB, .endStream].all (fun c => countBytes (fun b => classOf p b == c) == 1)

/-- The slices of a field of a class with `n` operand bytes name bits of its window (40_codec R81). -/
def slicesOk (n : Nat) (f : FieldLayout) : Bool :=
  f.all (fun sl => decide (sl.byte ≤ n) && decide (sl.lo ≤ sl.hi) && decide (sl.hi < 8))

/-- A tile field fits the 16-bit tile word (40_codec R88). -/
def tileFieldOk (n : Nat) (f : FieldLayout) : Bool := slicesOk n f && decide (fieldWidth f ≤ 16)

/-- The opcode bytes of PUT. -/
def putCodes (p : Profile) : List Byte := allBytes.filter (fun b => classOf p b == .put)

/-- PUT's tile field in the window `[b0, b1]` (40_codec R85). -/
def putTile (p : Profile) (b0 b1 : Byte) : Nat := extract [b0, b1] p.layout.mTile

/-- 30_encoding R64(c): PUT's tile word depends on low bits of `b0` (it tells apart two PUT opcodes that differ in their low
half alone) and on `b1`. DEDUCED: log 15 says how "low bits" is read. -/
def putTileOk (p : Profile) : Bool :=
  (putCodes p).any (fun b => (putCodes p).any (fun c =>
    b.toNat / 16 == c.toNat / 16 && putTile p b 0 != putTile p c 0)) &&
  (putCodes p).any (fun b => putTile p b 0 != putTile p b 255)

/-- The layouts lie in their windows (40_codec R81), a tile field fits a tile word (40_codec R88), the asset offset has
`ASSET_OFFSET_BITS` bits (40_codec R86), and PUT's tile word is as 30_encoding R64(c) has it. No rule bounds the width of a
position or asset-bank field, and nothing here does (DESIGN CHOICE, log 15); nor does anything ask that PLA's and PLB's
position fields have one width, `POS_BITS` (DESIGN CHOICE, log 20). -/
def layoutOk (p : Profile) : Bool :=
  slicesOk 4 p.layout.aPos && tileFieldOk 4 p.layout.aTile && slicesOk 4 p.layout.aBank && slicesOk 4 p.layout.aOff &&
    slicesOk 2 p.layout.bPos && tileFieldOk 2 p.layout.bTile && tileFieldOk 1 p.layout.mTile &&
    fieldWidth p.layout.aOff == p.assetOffsetBits && putTileOk p

/-- The profiles the model launches: 00_scope R3, 30_encoding R63 and R64, 40_codec R81, R86 and R88 (log 15). Nothing is
asked of `CURSOR_START` or the strides, which may put `CURSOR` past `FB_CELLS`: DESIGN CHOICE, log 18. -/
def profileOk (p : Profile) : Bool :=
  geometryOk p && rowsPartition p && eofCodesOk p && fixedCodesOk p && layoutOk p

/-- The memory contents of a launch lie in the address spaces of 20_memory R40 and are written in the one canonical form
(log 12). -/
def contentsOk (p : Profile) (m : Memory) : Bool := m.wf && m.inRange p

/-- What `boot` asks of a launch: its profile, its entry offset (10_state R13), and its memory contents (log 15). Nothing
is asked of `ASSET_BANK_BASE`: DESIGN CHOICE, log 22. -/
def launchOk (l : Launch) (cmdRom assetRom tile : List Host.Cell) : Bool :=
  profileOk l.prof && decide (l.cmdOffStart ≤ l.prof.bankSize) &&
    contentsOk l.prof (State.resetWith l cmdRom assetRom tile).mem

/-- Launch and reset the block (70_reset R185, R186 steps 3 and 5). A profile outside the spec is refused when it is
configured (00_scope R3), and so are an entry offset outside `CMD_OFF`'s range and memory contents outside 20_memory R40 (log 15). A `CURSOR_START` outside `CURSOR`'s
range is launched as it stands (DESIGN CHOICE, log 18). -/
def boot (l : Launch) (cmdRom assetRom tile : List Host.Cell) : Host.Outcome State Fault Refusal :=
  if launchOk l cmdRom assetRom tile then .next (State.resetWith l cmdRom assetRom tile)
  else .refused .launchOutsideSpec

end Sys2Proof.Machine
end

