-- ==== Sys2Proof/Machine/TickSource.lean ====
section
/-! DEFINITION. The TickSource (60_exceptions R163 to R169): the tick interrupt as the block sees it. It saves and changes no Engine register
(R166). -/

namespace Sys2Proof.Machine

/-- A tick occurs: `TICK <- trunc_16(TICK + 1)` while unmasked (60_exceptions R163); while masked it is latched, and
a second one while latched is lost (R164). -/
def tickEvent (s : State) : State :=
  if s.tickMasked then { s with tickPending := true } else { s with tick := s.tick + 1 }

/-- The delivery step is enabled iff a tick is latched and the mask is clear (60_exceptions R165). -/
def deliveryEnabled (s : State) : Bool := s.tickPending && !s.tickMasked

/-- The delivery step (60_exceptions R165); without it enabled the TickSource has no such step. -/
def deliverTick (s : State) : State :=
  if deliveryEnabled s then { s with tick := s.tick + 1, tickPending := false } else s

end Sys2Proof.Machine
end

