-- ==== Sys2Proof/Machine/Engine.lean ====
section
/-! DEFINITION. The Engine's step in each phase (42_stream_control R120, 43_flip_governor R140), and whose turn it is
(60_exceptions R167; log 4). -/

namespace Sys2Proof.Machine

/-- The Decoding step: fetch the window, decode it, perform it; a byte that cannot be read faults
(42_stream_control R120, R121). -/
def stepDecode (s : State) : Host.Outcome State Fault Refusal :=
  match fetchWindow s with
  | .error code => .next (raiseAtInstr code s)
  | .ok W =>
    match decode s.launch.prof W with
    | .ok (i, _) => exec i s
    | .error e => .fault (.shortWindow e)

/-- Whether the Engine has a step (43_flip_governor R140, R142, R151; 60_exceptions R160). While `DISPLAY_ONLY` is
set it reads no command and makes no flip (10_state R26; log 10). -/
def engineEnabled (s : State) : Bool :=
  match s.phase with
  | .decoding => !s.displayOnly
  | .waiting => s.budget.all (waitReady s.tick)
  | .consuming => true
  | .flipping => !s.displayOnly
  | .done => s.hostReq.isSome
  | .hostWaiting => s.budget.all (waitReady s.tick)
  | .hostConsuming => true
  | .faulted => false

/-- The Engine's step; with none enabled it holds, and nothing changes (43_flip_governor R142; log 5). -/
def engineStep (s : State) : Host.Outcome State Fault Refusal :=
  if engineEnabled s then
    match s.phase with
    | .decoding => stepDecode s
    | .waiting => .next (stepWait s)
    | .consuming => .next (stepConsume s)
    | .flipping => .next (stepFlip s)
    | .done => .next (stepHostAccept s)
    | .hostWaiting => .next (stepHostWait s)
    | .hostConsuming => .next (stepHostConsume s)
    | .faulted => .next s
  else .next s

/-- One agent's turn, atomic with respect to the others (00_scope R7). -/
def takeTurn (t : Turn) (s : State) : Host.Outcome State Fault Refusal :=
  match t with
  | .engine => engineStep s
  | .tick => .next (tickEvent s)
  | .deliver => .next (deliverTick s)
  | .hostWait k => hostWait k s
  | .hostReset => .next (hostReset s)

/-- The turn where the agenda names none: the Engine's if it has a step, else the delivery of a latched tick (log 4). -/
def defaultTurn (s : State) : Turn := if engineEnabled s then .engine else .deliver

/-- One step of the block: the next turn of the agenda, which it removes. -/
def stepBlock (s : State) : Host.Outcome State Fault Refusal :=
  match s.agenda with
  | [] => takeTurn (defaultTurn s) s
  | t :: rest => takeTurn t { s with agenda := rest }

/-- The agenda with the Engine's turn next (log 13). -/
def engineNext : List Turn → List Turn
  | [] => []
  | .engine :: rest => .engine :: rest
  | t :: rest => .engine :: t :: rest

/-- The command ROM with bytes listed from `(bank, off)` on, as far as the bank goes. -/
def loadCommand (p : Profile) (bank off : Nat) : List Byte → List Host.Cell → List Host.Cell
  | [], rom => rom
  | b :: bs, rom =>
    if off < p.bankSize then loadCommand p bank (off + 1) bs (Store.write rom (linearOffset p bank off) b) else rom

/-- `s` with the bytes placed where the Engine fetches next, and the Engine about to fetch them (log 13). -/
def placeAtFetch (W : List Byte) (s : State) : State :=
  { s with
    phase := .decoding
    displayOnly := false
    agenda := engineNext s.agenda
    mem := { s.mem with cmdRom := loadCommand s.launch.prof s.cmdBank.toNat s.cmdOff W s.mem.cmdRom } }

end Sys2Proof.Machine
end

