-- ==== Sys2Proof/Machine/Step.lean ====
section
/-! DEFINITION. `step`, and placing an instruction where it fetches. -/

namespace Sys2Proof.Machine

/-- One step of the machine: one atomic step of one agent (00_scope R7). -/
def step (s : State) : Host.Outcome State Fault Refusal := stepBlock s

/-- `s` with the instruction of the bits `w` stored at the command position (log 13). -/
def State.withFetchWord (s : State) (nbits w : Nat) : State := placeAtFetch (tableBytes nbits w) s

end Sys2Proof.Machine
end

