-- ==== Sys2Proof/Laws/State.lean ====
section
/-! SUPPORT. One lemma per field per update: what each named update of State leaves in each field. -/

namespace Sys2Proof.Machine

/-! ## raiseFault -/

@[simp] theorem raiseFault_phase (code : FaultCode) (op : Option Byte) (s : State) :
    (raiseFault code op s).phase = .faulted := rfl

@[simp] theorem raiseFault_cmdBank (code : FaultCode) (op : Option Byte) (s : State) :
    (raiseFault code op s).cmdBank = s.cmdBank := rfl

@[simp] theorem raiseFault_cmdOff (code : FaultCode) (op : Option Byte) (s : State) :
    (raiseFault code op s).cmdOff = s.cmdOff := rfl

@[simp] theorem raiseFault_assetBank (code : FaultCode) (op : Option Byte) (s : State) :
    (raiseFault code op s).assetBank = s.assetBank := rfl

@[simp] theorem raiseFault_cursor (code : FaultCode) (op : Option Byte) (s : State) :
    (raiseFault code op s).cursor = s.cursor := rfl

@[simp] theorem raiseFault_budget (code : FaultCode) (op : Option Byte) (s : State) :
    (raiseFault code op s).budget = s.budget := rfl

@[simp] theorem raiseFault_tick (code : FaultCode) (op : Option Byte) (s : State) :
    (raiseFault code op s).tick = s.tick := rfl

@[simp] theorem raiseFault_tickMasked (code : FaultCode) (op : Option Byte) (s : State) :
    (raiseFault code op s).tickMasked = s.tickMasked := rfl

@[simp] theorem raiseFault_tickPending (code : FaultCode) (op : Option Byte) (s : State) :
    (raiseFault code op s).tickPending = s.tickPending := rfl

@[simp] theorem raiseFault_curSel (code : FaultCode) (op : Option Byte) (s : State) :
    (raiseFault code op s).curSel = s.curSel := rfl

@[simp] theorem raiseFault_pendingBorder (code : FaultCode) (op : Option Byte) (s : State) :
    (raiseFault code op s).pendingBorder = s.pendingBorder := rfl

@[simp] theorem raiseFault_dispActive (code : FaultCode) (op : Option Byte) (s : State) :
    (raiseFault code op s).dispActive = s.dispActive := rfl

@[simp] theorem raiseFault_dispBorder (code : FaultCode) (op : Option Byte) (s : State) :
    (raiseFault code op s).dispBorder = s.dispBorder := rfl

@[simp] theorem raiseFault_displayOnly (code : FaultCode) (op : Option Byte) (s : State) :
    (raiseFault code op s).displayOnly = s.displayOnly := rfl

@[simp] theorem raiseFault_signal (code : FaultCode) (op : Option Byte) (s : State) :
    (raiseFault code op s).signal = s.signal := rfl

@[simp] theorem raiseFault_fault (code : FaultCode) (op : Option Byte) (s : State) :
    (raiseFault code op s).fault = some ⟨code, s.cmdBank, s.cmdOff, op⟩ := rfl

@[simp] theorem raiseFault_hostReq (code : FaultCode) (op : Option Byte) (s : State) :
    (raiseFault code op s).hostReq = s.hostReq := rfl

@[simp] theorem raiseFault_mem (code : FaultCode) (op : Option Byte) (s : State) :
    (raiseFault code op s).mem = s.mem := rfl

@[simp] theorem raiseFault_agenda (code : FaultCode) (op : Option Byte) (s : State) :
    (raiseFault code op s).agenda = s.agenda := rfl

@[simp] theorem raiseFault_launch (code : FaultCode) (op : Option Byte) (s : State) :
    (raiseFault code op s).launch = s.launch := rfl

/-! ## advanceOff -/

@[simp] theorem advanceOff_phase (cls : OpClass) (s : State) : (advanceOff cls s).phase = s.phase := rfl

@[simp] theorem advanceOff_cmdBank (cls : OpClass) (s : State) : (advanceOff cls s).cmdBank = s.cmdBank := rfl

@[simp] theorem advanceOff_cmdOff (cls : OpClass) (s : State) :
    (advanceOff cls s).cmdOff = s.cmdOff + (1 + operandCount cls) := rfl

@[simp] theorem advanceOff_assetBank (cls : OpClass) (s : State) : (advanceOff cls s).assetBank = s.assetBank := rfl

@[simp] theorem advanceOff_cursor (cls : OpClass) (s : State) : (advanceOff cls s).cursor = s.cursor := rfl

@[simp] theorem advanceOff_budget (cls : OpClass) (s : State) : (advanceOff cls s).budget = s.budget := rfl

@[simp] theorem advanceOff_tick (cls : OpClass) (s : State) : (advanceOff cls s).tick = s.tick := rfl

@[simp] theorem advanceOff_tickMasked (cls : OpClass) (s : State) :
    (advanceOff cls s).tickMasked = s.tickMasked := rfl

@[simp] theorem advanceOff_tickPending (cls : OpClass) (s : State) :
    (advanceOff cls s).tickPending = s.tickPending := rfl

@[simp] theorem advanceOff_curSel (cls : OpClass) (s : State) : (advanceOff cls s).curSel = s.curSel := rfl

@[simp] theorem advanceOff_pendingBorder (cls : OpClass) (s : State) :
    (advanceOff cls s).pendingBorder = s.pendingBorder := rfl

@[simp] theorem advanceOff_dispActive (cls : OpClass) (s : State) :
    (advanceOff cls s).dispActive = s.dispActive := rfl

@[simp] theorem advanceOff_dispBorder (cls : OpClass) (s : State) :
    (advanceOff cls s).dispBorder = s.dispBorder := rfl

@[simp] theorem advanceOff_displayOnly (cls : OpClass) (s : State) :
    (advanceOff cls s).displayOnly = s.displayOnly := rfl

@[simp] theorem advanceOff_signal (cls : OpClass) (s : State) : (advanceOff cls s).signal = s.signal := rfl

@[simp] theorem advanceOff_fault (cls : OpClass) (s : State) : (advanceOff cls s).fault = s.fault := rfl

@[simp] theorem advanceOff_hostReq (cls : OpClass) (s : State) : (advanceOff cls s).hostReq = s.hostReq := rfl

@[simp] theorem advanceOff_mem (cls : OpClass) (s : State) : (advanceOff cls s).mem = s.mem := rfl

@[simp] theorem advanceOff_agenda (cls : OpClass) (s : State) : (advanceOff cls s).agenda = s.agenda := rfl

@[simp] theorem advanceOff_launch (cls : OpClass) (s : State) : (advanceOff cls s).launch = s.launch := rfl

/-! ## moveCursor -/

@[simp] theorem moveCursor_phase (c : Nat) (s : State) : (moveCursor c s).phase = s.phase := rfl

@[simp] theorem moveCursor_cmdBank (c : Nat) (s : State) : (moveCursor c s).cmdBank = s.cmdBank := rfl

@[simp] theorem moveCursor_cmdOff (c : Nat) (s : State) : (moveCursor c s).cmdOff = s.cmdOff := rfl

@[simp] theorem moveCursor_assetBank (c : Nat) (s : State) : (moveCursor c s).assetBank = s.assetBank := rfl

@[simp] theorem moveCursor_cursor (c : Nat) (s : State) : (moveCursor c s).cursor = c := rfl

@[simp] theorem moveCursor_budget (c : Nat) (s : State) : (moveCursor c s).budget = s.budget := rfl

@[simp] theorem moveCursor_tick (c : Nat) (s : State) : (moveCursor c s).tick = s.tick := rfl

@[simp] theorem moveCursor_tickMasked (c : Nat) (s : State) : (moveCursor c s).tickMasked = s.tickMasked := rfl

@[simp] theorem moveCursor_tickPending (c : Nat) (s : State) : (moveCursor c s).tickPending = s.tickPending := rfl

@[simp] theorem moveCursor_curSel (c : Nat) (s : State) : (moveCursor c s).curSel = s.curSel := rfl

@[simp] theorem moveCursor_pendingBorder (c : Nat) (s : State) :
    (moveCursor c s).pendingBorder = s.pendingBorder := rfl

@[simp] theorem moveCursor_dispActive (c : Nat) (s : State) : (moveCursor c s).dispActive = s.dispActive := rfl

@[simp] theorem moveCursor_dispBorder (c : Nat) (s : State) : (moveCursor c s).dispBorder = s.dispBorder := rfl

@[simp] theorem moveCursor_displayOnly (c : Nat) (s : State) : (moveCursor c s).displayOnly = s.displayOnly := rfl

@[simp] theorem moveCursor_signal (c : Nat) (s : State) : (moveCursor c s).signal = s.signal := rfl

@[simp] theorem moveCursor_fault (c : Nat) (s : State) : (moveCursor c s).fault = s.fault := rfl

@[simp] theorem moveCursor_hostReq (c : Nat) (s : State) : (moveCursor c s).hostReq = s.hostReq := rfl

@[simp] theorem moveCursor_mem (c : Nat) (s : State) : (moveCursor c s).mem = s.mem := rfl

@[simp] theorem moveCursor_agenda (c : Nat) (s : State) : (moveCursor c s).agenda = s.agenda := rfl

@[simp] theorem moveCursor_launch (c : Nat) (s : State) : (moveCursor c s).launch = s.launch := rfl

/-! ## writeNextCell -/

@[simp] theorem writeNextCell_phase (c : Nat) (tw : TileWord) (s : State) :
    (writeNextCell c tw s).phase = s.phase := rfl

@[simp] theorem writeNextCell_cmdBank (c : Nat) (tw : TileWord) (s : State) :
    (writeNextCell c tw s).cmdBank = s.cmdBank := rfl

@[simp] theorem writeNextCell_cmdOff (c : Nat) (tw : TileWord) (s : State) :
    (writeNextCell c tw s).cmdOff = s.cmdOff := rfl

@[simp] theorem writeNextCell_assetBank (c : Nat) (tw : TileWord) (s : State) :
    (writeNextCell c tw s).assetBank = s.assetBank := rfl

@[simp] theorem writeNextCell_cursor (c : Nat) (tw : TileWord) (s : State) :
    (writeNextCell c tw s).cursor = s.cursor := rfl

@[simp] theorem writeNextCell_budget (c : Nat) (tw : TileWord) (s : State) :
    (writeNextCell c tw s).budget = s.budget := rfl

@[simp] theorem writeNextCell_tick (c : Nat) (tw : TileWord) (s : State) : (writeNextCell c tw s).tick = s.tick := rfl

@[simp] theorem writeNextCell_tickMasked (c : Nat) (tw : TileWord) (s : State) :
    (writeNextCell c tw s).tickMasked = s.tickMasked := rfl

@[simp] theorem writeNextCell_tickPending (c : Nat) (tw : TileWord) (s : State) :
    (writeNextCell c tw s).tickPending = s.tickPending := rfl

@[simp] theorem writeNextCell_curSel (c : Nat) (tw : TileWord) (s : State) :
    (writeNextCell c tw s).curSel = s.curSel := rfl

@[simp] theorem writeNextCell_pendingBorder (c : Nat) (tw : TileWord) (s : State) :
    (writeNextCell c tw s).pendingBorder = s.pendingBorder := rfl

@[simp] theorem writeNextCell_dispActive (c : Nat) (tw : TileWord) (s : State) :
    (writeNextCell c tw s).dispActive = s.dispActive := rfl

@[simp] theorem writeNextCell_dispBorder (c : Nat) (tw : TileWord) (s : State) :
    (writeNextCell c tw s).dispBorder = s.dispBorder := rfl

@[simp] theorem writeNextCell_displayOnly (c : Nat) (tw : TileWord) (s : State) :
    (writeNextCell c tw s).displayOnly = s.displayOnly := rfl

@[simp] theorem writeNextCell_signal (c : Nat) (tw : TileWord) (s : State) :
    (writeNextCell c tw s).signal = s.signal := rfl

@[simp] theorem writeNextCell_fault (c : Nat) (tw : TileWord) (s : State) :
    (writeNextCell c tw s).fault = s.fault := rfl

@[simp] theorem writeNextCell_hostReq (c : Nat) (tw : TileWord) (s : State) :
    (writeNextCell c tw s).hostReq = s.hostReq := rfl

@[simp] theorem writeNextCell_mem (c : Nat) (tw : TileWord) (s : State) :
    (writeNextCell c tw s).mem = s.mem.setFb (nextSel s) (storeCell (s.mem.fb (nextSel s)) c tw) := rfl

@[simp] theorem writeNextCell_agenda (c : Nat) (tw : TileWord) (s : State) :
    (writeNextCell c tw s).agenda = s.agenda := rfl

@[simp] theorem writeNextCell_launch (c : Nat) (tw : TileWord) (s : State) :
    (writeNextCell c tw s).launch = s.launch := rfl

/-! ## fetchTile -/

@[simp] theorem fetchTile_phase (bank slot : Nat) (block : List Byte) (s : State) :
    (fetchTile bank slot block s).phase = s.phase := rfl

@[simp] theorem fetchTile_cmdBank (bank slot : Nat) (block : List Byte) (s : State) :
    (fetchTile bank slot block s).cmdBank = s.cmdBank := rfl

@[simp] theorem fetchTile_cmdOff (bank slot : Nat) (block : List Byte) (s : State) :
    (fetchTile bank slot block s).cmdOff = s.cmdOff := rfl

@[simp] theorem fetchTile_assetBank (bank slot : Nat) (block : List Byte) (s : State) :
    (fetchTile bank slot block s).assetBank = some (BitVec.ofNat 8 bank) := rfl

@[simp] theorem fetchTile_cursor (bank slot : Nat) (block : List Byte) (s : State) :
    (fetchTile bank slot block s).cursor = s.cursor := rfl

@[simp] theorem fetchTile_budget (bank slot : Nat) (block : List Byte) (s : State) :
    (fetchTile bank slot block s).budget = s.budget := rfl

@[simp] theorem fetchTile_tick (bank slot : Nat) (block : List Byte) (s : State) :
    (fetchTile bank slot block s).tick = s.tick := rfl

@[simp] theorem fetchTile_tickMasked (bank slot : Nat) (block : List Byte) (s : State) :
    (fetchTile bank slot block s).tickMasked = s.tickMasked := rfl

@[simp] theorem fetchTile_tickPending (bank slot : Nat) (block : List Byte) (s : State) :
    (fetchTile bank slot block s).tickPending = s.tickPending := rfl

@[simp] theorem fetchTile_curSel (bank slot : Nat) (block : List Byte) (s : State) :
    (fetchTile bank slot block s).curSel = s.curSel := rfl

@[simp] theorem fetchTile_pendingBorder (bank slot : Nat) (block : List Byte) (s : State) :
    (fetchTile bank slot block s).pendingBorder = s.pendingBorder := rfl

@[simp] theorem fetchTile_dispActive (bank slot : Nat) (block : List Byte) (s : State) :
    (fetchTile bank slot block s).dispActive = s.dispActive := rfl

@[simp] theorem fetchTile_dispBorder (bank slot : Nat) (block : List Byte) (s : State) :
    (fetchTile bank slot block s).dispBorder = s.dispBorder := rfl

@[simp] theorem fetchTile_displayOnly (bank slot : Nat) (block : List Byte) (s : State) :
    (fetchTile bank slot block s).displayOnly = s.displayOnly := rfl

@[simp] theorem fetchTile_signal (bank slot : Nat) (block : List Byte) (s : State) :
    (fetchTile bank slot block s).signal = s.signal := rfl

@[simp] theorem fetchTile_fault (bank slot : Nat) (block : List Byte) (s : State) :
    (fetchTile bank slot block s).fault = s.fault := rfl

@[simp] theorem fetchTile_hostReq (bank slot : Nat) (block : List Byte) (s : State) :
    (fetchTile bank slot block s).hostReq = s.hostReq := rfl

@[simp] theorem fetchTile_mem (bank slot : Nat) (block : List Byte) (s : State) :
    (fetchTile bank slot block s).mem = { s.mem with tile := Store.writeBlock s.mem.tile (slot * s.launch.prof.tileBytes) block } := rfl

@[simp] theorem fetchTile_agenda (bank slot : Nat) (block : List Byte) (s : State) :
    (fetchTile bank slot block s).agenda = s.agenda := rfl

@[simp] theorem fetchTile_launch (bank slot : Nat) (block : List Byte) (s : State) :
    (fetchTile bank slot block s).launch = s.launch := rfl

/-! ## setPendingBorder -/

@[simp] theorem setPendingBorder_phase (v : Border) (s : State) : (setPendingBorder v s).phase = s.phase := rfl

@[simp] theorem setPendingBorder_cmdBank (v : Border) (s : State) : (setPendingBorder v s).cmdBank = s.cmdBank := rfl

@[simp] theorem setPendingBorder_cmdOff (v : Border) (s : State) : (setPendingBorder v s).cmdOff = s.cmdOff := rfl

@[simp] theorem setPendingBorder_assetBank (v : Border) (s : State) :
    (setPendingBorder v s).assetBank = s.assetBank := rfl

@[simp] theorem setPendingBorder_cursor (v : Border) (s : State) : (setPendingBorder v s).cursor = s.cursor := rfl

@[simp] theorem setPendingBorder_budget (v : Border) (s : State) : (setPendingBorder v s).budget = s.budget := rfl

@[simp] theorem setPendingBorder_tick (v : Border) (s : State) : (setPendingBorder v s).tick = s.tick := rfl

@[simp] theorem setPendingBorder_tickMasked (v : Border) (s : State) :
    (setPendingBorder v s).tickMasked = s.tickMasked := rfl

@[simp] theorem setPendingBorder_tickPending (v : Border) (s : State) :
    (setPendingBorder v s).tickPending = s.tickPending := rfl

@[simp] theorem setPendingBorder_curSel (v : Border) (s : State) : (setPendingBorder v s).curSel = s.curSel := rfl

@[simp] theorem setPendingBorder_pendingBorder (v : Border) (s : State) :
    (setPendingBorder v s).pendingBorder = some v := rfl

@[simp] theorem setPendingBorder_dispActive (v : Border) (s : State) :
    (setPendingBorder v s).dispActive = s.dispActive := rfl

@[simp] theorem setPendingBorder_dispBorder (v : Border) (s : State) :
    (setPendingBorder v s).dispBorder = s.dispBorder := rfl

@[simp] theorem setPendingBorder_displayOnly (v : Border) (s : State) :
    (setPendingBorder v s).displayOnly = s.displayOnly := rfl

@[simp] theorem setPendingBorder_signal (v : Border) (s : State) : (setPendingBorder v s).signal = s.signal := rfl

@[simp] theorem setPendingBorder_fault (v : Border) (s : State) : (setPendingBorder v s).fault = s.fault := rfl

@[simp] theorem setPendingBorder_hostReq (v : Border) (s : State) : (setPendingBorder v s).hostReq = s.hostReq := rfl

@[simp] theorem setPendingBorder_mem (v : Border) (s : State) : (setPendingBorder v s).mem = s.mem := rfl

@[simp] theorem setPendingBorder_agenda (v : Border) (s : State) : (setPendingBorder v s).agenda = s.agenda := rfl

@[simp] theorem setPendingBorder_launch (v : Border) (s : State) : (setPendingBorder v s).launch = s.launch := rfl

/-! ## awaitBudget -/

@[simp] theorem awaitBudget_phase (k : Budget) (s : State) : (awaitBudget k s).phase = .waiting := rfl

@[simp] theorem awaitBudget_cmdBank (k : Budget) (s : State) : (awaitBudget k s).cmdBank = s.cmdBank := rfl

@[simp] theorem awaitBudget_cmdOff (k : Budget) (s : State) : (awaitBudget k s).cmdOff = s.cmdOff := rfl

@[simp] theorem awaitBudget_assetBank (k : Budget) (s : State) : (awaitBudget k s).assetBank = s.assetBank := rfl

@[simp] theorem awaitBudget_cursor (k : Budget) (s : State) : (awaitBudget k s).cursor = s.cursor := rfl

@[simp] theorem awaitBudget_budget (k : Budget) (s : State) : (awaitBudget k s).budget = some k := rfl

@[simp] theorem awaitBudget_tick (k : Budget) (s : State) : (awaitBudget k s).tick = s.tick := rfl

@[simp] theorem awaitBudget_tickMasked (k : Budget) (s : State) : (awaitBudget k s).tickMasked = s.tickMasked := rfl

@[simp] theorem awaitBudget_tickPending (k : Budget) (s : State) :
    (awaitBudget k s).tickPending = s.tickPending := rfl

@[simp] theorem awaitBudget_curSel (k : Budget) (s : State) : (awaitBudget k s).curSel = s.curSel := rfl

@[simp] theorem awaitBudget_pendingBorder (k : Budget) (s : State) :
    (awaitBudget k s).pendingBorder = s.pendingBorder := rfl

@[simp] theorem awaitBudget_dispActive (k : Budget) (s : State) : (awaitBudget k s).dispActive = s.dispActive := rfl

@[simp] theorem awaitBudget_dispBorder (k : Budget) (s : State) : (awaitBudget k s).dispBorder = s.dispBorder := rfl

@[simp] theorem awaitBudget_displayOnly (k : Budget) (s : State) :
    (awaitBudget k s).displayOnly = s.displayOnly := rfl

@[simp] theorem awaitBudget_signal (k : Budget) (s : State) : (awaitBudget k s).signal = s.signal := rfl

@[simp] theorem awaitBudget_fault (k : Budget) (s : State) : (awaitBudget k s).fault = s.fault := rfl

@[simp] theorem awaitBudget_hostReq (k : Budget) (s : State) : (awaitBudget k s).hostReq = s.hostReq := rfl

@[simp] theorem awaitBudget_mem (k : Budget) (s : State) : (awaitBudget k s).mem = s.mem := rfl

@[simp] theorem awaitBudget_agenda (k : Budget) (s : State) : (awaitBudget k s).agenda = s.agenda := rfl

@[simp] theorem awaitBudget_launch (k : Budget) (s : State) : (awaitBudget k s).launch = s.launch := rfl

/-! ## enterDone -/

@[simp] theorem enterDone_phase (s : State) : (enterDone s).phase = .done := rfl

@[simp] theorem enterDone_cmdBank (s : State) : (enterDone s).cmdBank = s.cmdBank := rfl

@[simp] theorem enterDone_cmdOff (s : State) : (enterDone s).cmdOff = s.cmdOff := rfl

@[simp] theorem enterDone_assetBank (s : State) : (enterDone s).assetBank = s.assetBank := rfl

@[simp] theorem enterDone_cursor (s : State) : (enterDone s).cursor = s.cursor := rfl

@[simp] theorem enterDone_budget (s : State) : (enterDone s).budget = s.budget := rfl

@[simp] theorem enterDone_tick (s : State) : (enterDone s).tick = s.tick := rfl

@[simp] theorem enterDone_tickMasked (s : State) : (enterDone s).tickMasked = s.tickMasked := rfl

@[simp] theorem enterDone_tickPending (s : State) : (enterDone s).tickPending = s.tickPending := rfl

@[simp] theorem enterDone_curSel (s : State) : (enterDone s).curSel = s.curSel := rfl

@[simp] theorem enterDone_pendingBorder (s : State) : (enterDone s).pendingBorder = s.pendingBorder := rfl

@[simp] theorem enterDone_dispActive (s : State) : (enterDone s).dispActive = s.dispActive := rfl

@[simp] theorem enterDone_dispBorder (s : State) : (enterDone s).dispBorder = s.dispBorder := rfl

@[simp] theorem enterDone_displayOnly (s : State) : (enterDone s).displayOnly = s.displayOnly := rfl

@[simp] theorem enterDone_signal (s : State) : (enterDone s).signal = s.signal := rfl

@[simp] theorem enterDone_fault (s : State) : (enterDone s).fault = s.fault := rfl

@[simp] theorem enterDone_hostReq (s : State) : (enterDone s).hostReq = s.hostReq := rfl

@[simp] theorem enterDone_mem (s : State) : (enterDone s).mem = s.mem := rfl

@[simp] theorem enterDone_agenda (s : State) : (enterDone s).agenda = s.agenda := rfl

@[simp] theorem enterDone_launch (s : State) : (enterDone s).launch = s.launch := rfl

/-! ## signalMoreFrames -/

@[simp] theorem signalMoreFrames_phase (s : State) : (signalMoreFrames s).phase = s.phase := rfl

@[simp] theorem signalMoreFrames_cmdBank (s : State) : (signalMoreFrames s).cmdBank = s.cmdBank := rfl

@[simp] theorem signalMoreFrames_cmdOff (s : State) : (signalMoreFrames s).cmdOff = s.cmdOff := rfl

@[simp] theorem signalMoreFrames_assetBank (s : State) : (signalMoreFrames s).assetBank = s.assetBank := rfl

@[simp] theorem signalMoreFrames_cursor (s : State) : (signalMoreFrames s).cursor = s.cursor := rfl

@[simp] theorem signalMoreFrames_budget (s : State) : (signalMoreFrames s).budget = s.budget := rfl

@[simp] theorem signalMoreFrames_tick (s : State) : (signalMoreFrames s).tick = s.tick := rfl

@[simp] theorem signalMoreFrames_tickMasked (s : State) : (signalMoreFrames s).tickMasked = s.tickMasked := rfl

@[simp] theorem signalMoreFrames_tickPending (s : State) : (signalMoreFrames s).tickPending = s.tickPending := rfl

@[simp] theorem signalMoreFrames_curSel (s : State) : (signalMoreFrames s).curSel = s.curSel := rfl

@[simp] theorem signalMoreFrames_pendingBorder (s : State) :
    (signalMoreFrames s).pendingBorder = s.pendingBorder := rfl

@[simp] theorem signalMoreFrames_dispActive (s : State) : (signalMoreFrames s).dispActive = s.dispActive := rfl

@[simp] theorem signalMoreFrames_dispBorder (s : State) : (signalMoreFrames s).dispBorder = s.dispBorder := rfl

@[simp] theorem signalMoreFrames_displayOnly (s : State) : (signalMoreFrames s).displayOnly = s.displayOnly := rfl

@[simp] theorem signalMoreFrames_signal (s : State) : (signalMoreFrames s).signal = .moreFrames := rfl

@[simp] theorem signalMoreFrames_fault (s : State) : (signalMoreFrames s).fault = s.fault := rfl

@[simp] theorem signalMoreFrames_hostReq (s : State) : (signalMoreFrames s).hostReq = s.hostReq := rfl

@[simp] theorem signalMoreFrames_mem (s : State) : (signalMoreFrames s).mem = s.mem := rfl

@[simp] theorem signalMoreFrames_agenda (s : State) : (signalMoreFrames s).agenda = s.agenda := rfl

@[simp] theorem signalMoreFrames_launch (s : State) : (signalMoreFrames s).launch = s.launch := rfl

/-! ## signalStreamDone -/

@[simp] theorem signalStreamDone_phase (s : State) : (signalStreamDone s).phase = s.phase := rfl

@[simp] theorem signalStreamDone_cmdBank (s : State) : (signalStreamDone s).cmdBank = s.cmdBank := rfl

@[simp] theorem signalStreamDone_cmdOff (s : State) : (signalStreamDone s).cmdOff = s.cmdOff := rfl

@[simp] theorem signalStreamDone_assetBank (s : State) : (signalStreamDone s).assetBank = s.assetBank := rfl

@[simp] theorem signalStreamDone_cursor (s : State) : (signalStreamDone s).cursor = s.cursor := rfl

@[simp] theorem signalStreamDone_budget (s : State) : (signalStreamDone s).budget = s.budget := rfl

@[simp] theorem signalStreamDone_tick (s : State) : (signalStreamDone s).tick = s.tick := rfl

@[simp] theorem signalStreamDone_tickMasked (s : State) : (signalStreamDone s).tickMasked = s.tickMasked := rfl

@[simp] theorem signalStreamDone_tickPending (s : State) : (signalStreamDone s).tickPending = s.tickPending := rfl

@[simp] theorem signalStreamDone_curSel (s : State) : (signalStreamDone s).curSel = s.curSel := rfl

@[simp] theorem signalStreamDone_pendingBorder (s : State) :
    (signalStreamDone s).pendingBorder = s.pendingBorder := rfl

@[simp] theorem signalStreamDone_dispActive (s : State) : (signalStreamDone s).dispActive = s.dispActive := rfl

@[simp] theorem signalStreamDone_dispBorder (s : State) : (signalStreamDone s).dispBorder = s.dispBorder := rfl

@[simp] theorem signalStreamDone_displayOnly (s : State) : (signalStreamDone s).displayOnly = true := rfl

@[simp] theorem signalStreamDone_signal (s : State) : (signalStreamDone s).signal = .streamDone := rfl

@[simp] theorem signalStreamDone_fault (s : State) : (signalStreamDone s).fault = s.fault := rfl

@[simp] theorem signalStreamDone_hostReq (s : State) : (signalStreamDone s).hostReq = s.hostReq := rfl

@[simp] theorem signalStreamDone_mem (s : State) : (signalStreamDone s).mem = s.mem := rfl

@[simp] theorem signalStreamDone_agenda (s : State) : (signalStreamDone s).agenda = s.agenda := rfl

@[simp] theorem signalStreamDone_launch (s : State) : (signalStreamDone s).launch = s.launch := rfl

/-! ## clearSignal -/

@[simp] theorem clearSignal_phase (s : State) : (clearSignal s).phase = s.phase := rfl

@[simp] theorem clearSignal_cmdBank (s : State) : (clearSignal s).cmdBank = s.cmdBank := rfl

@[simp] theorem clearSignal_cmdOff (s : State) : (clearSignal s).cmdOff = s.cmdOff := rfl

@[simp] theorem clearSignal_assetBank (s : State) : (clearSignal s).assetBank = s.assetBank := rfl

@[simp] theorem clearSignal_cursor (s : State) : (clearSignal s).cursor = s.cursor := rfl

@[simp] theorem clearSignal_budget (s : State) : (clearSignal s).budget = s.budget := rfl

@[simp] theorem clearSignal_tick (s : State) : (clearSignal s).tick = s.tick := rfl

@[simp] theorem clearSignal_tickMasked (s : State) : (clearSignal s).tickMasked = s.tickMasked := rfl

@[simp] theorem clearSignal_tickPending (s : State) : (clearSignal s).tickPending = s.tickPending := rfl

@[simp] theorem clearSignal_curSel (s : State) : (clearSignal s).curSel = s.curSel := rfl

@[simp] theorem clearSignal_pendingBorder (s : State) : (clearSignal s).pendingBorder = s.pendingBorder := rfl

@[simp] theorem clearSignal_dispActive (s : State) : (clearSignal s).dispActive = s.dispActive := rfl

@[simp] theorem clearSignal_dispBorder (s : State) : (clearSignal s).dispBorder = s.dispBorder := rfl

@[simp] theorem clearSignal_displayOnly (s : State) : (clearSignal s).displayOnly = s.displayOnly := rfl

@[simp] theorem clearSignal_signal (s : State) : (clearSignal s).signal = .none := rfl

@[simp] theorem clearSignal_fault (s : State) : (clearSignal s).fault = s.fault := rfl

@[simp] theorem clearSignal_hostReq (s : State) : (clearSignal s).hostReq = s.hostReq := rfl

@[simp] theorem clearSignal_mem (s : State) : (clearSignal s).mem = s.mem := rfl

@[simp] theorem clearSignal_agenda (s : State) : (clearSignal s).agenda = s.agenda := rfl

@[simp] theorem clearSignal_launch (s : State) : (clearSignal s).launch = s.launch := rfl

/-! ## flipBuffers -/

@[simp] theorem flipBuffers_phase (s : State) : (flipBuffers s).phase = s.phase := rfl

@[simp] theorem flipBuffers_cmdBank (s : State) : (flipBuffers s).cmdBank = s.cmdBank := rfl

@[simp] theorem flipBuffers_cmdOff (s : State) : (flipBuffers s).cmdOff = s.cmdOff := rfl

@[simp] theorem flipBuffers_assetBank (s : State) : (flipBuffers s).assetBank = s.assetBank := rfl

@[simp] theorem flipBuffers_cursor (s : State) : (flipBuffers s).cursor = s.cursor := rfl

@[simp] theorem flipBuffers_budget (s : State) : (flipBuffers s).budget = s.budget := rfl

@[simp] theorem flipBuffers_tick (s : State) : (flipBuffers s).tick = s.tick := rfl

@[simp] theorem flipBuffers_tickMasked (s : State) : (flipBuffers s).tickMasked = s.tickMasked := rfl

@[simp] theorem flipBuffers_tickPending (s : State) : (flipBuffers s).tickPending = s.tickPending := rfl

@[simp] theorem flipBuffers_curSel (s : State) : (flipBuffers s).curSel = s.curSel.other := rfl

@[simp] theorem flipBuffers_pendingBorder (s : State) : (flipBuffers s).pendingBorder = none := rfl

@[simp] theorem flipBuffers_dispActive (s : State) : (flipBuffers s).dispActive = s.curSel.other := rfl

@[simp] theorem flipBuffers_dispBorder (s : State) :
    (flipBuffers s).dispBorder = s.pendingBorder.getD s.dispBorder := rfl

@[simp] theorem flipBuffers_displayOnly (s : State) : (flipBuffers s).displayOnly = s.displayOnly := rfl

@[simp] theorem flipBuffers_signal (s : State) : (flipBuffers s).signal = s.signal := rfl

@[simp] theorem flipBuffers_fault (s : State) : (flipBuffers s).fault = s.fault := rfl

@[simp] theorem flipBuffers_hostReq (s : State) : (flipBuffers s).hostReq = s.hostReq := rfl

@[simp] theorem flipBuffers_mem (s : State) : (flipBuffers s).mem = s.mem := rfl

@[simp] theorem flipBuffers_agenda (s : State) : (flipBuffers s).agenda = s.agenda := rfl

@[simp] theorem flipBuffers_launch (s : State) : (flipBuffers s).launch = s.launch := rfl

/-! ## beginFrame -/

@[simp] theorem beginFrame_phase (s : State) : (beginFrame s).phase = s.phase := rfl

@[simp] theorem beginFrame_cmdBank (s : State) : (beginFrame s).cmdBank = s.cmdBank := rfl

@[simp] theorem beginFrame_cmdOff (s : State) : (beginFrame s).cmdOff = s.cmdOff := rfl

@[simp] theorem beginFrame_assetBank (s : State) : (beginFrame s).assetBank = s.assetBank := rfl

@[simp] theorem beginFrame_cursor (s : State) : (beginFrame s).cursor = s.launch.prof.cursorStart := rfl

@[simp] theorem beginFrame_budget (s : State) : (beginFrame s).budget = s.budget := rfl

@[simp] theorem beginFrame_tick (s : State) : (beginFrame s).tick = s.tick := rfl

@[simp] theorem beginFrame_tickMasked (s : State) : (beginFrame s).tickMasked = s.tickMasked := rfl

@[simp] theorem beginFrame_tickPending (s : State) : (beginFrame s).tickPending = s.tickPending := rfl

@[simp] theorem beginFrame_curSel (s : State) : (beginFrame s).curSel = s.curSel := rfl

@[simp] theorem beginFrame_pendingBorder (s : State) : (beginFrame s).pendingBorder = s.pendingBorder := rfl

@[simp] theorem beginFrame_dispActive (s : State) : (beginFrame s).dispActive = s.dispActive := rfl

@[simp] theorem beginFrame_dispBorder (s : State) : (beginFrame s).dispBorder = s.dispBorder := rfl

@[simp] theorem beginFrame_displayOnly (s : State) : (beginFrame s).displayOnly = s.displayOnly := rfl

@[simp] theorem beginFrame_signal (s : State) : (beginFrame s).signal = .none := rfl

@[simp] theorem beginFrame_fault (s : State) : (beginFrame s).fault = s.fault := rfl

@[simp] theorem beginFrame_hostReq (s : State) : (beginFrame s).hostReq = s.hostReq := rfl

@[simp] theorem beginFrame_mem (s : State) : (beginFrame s).mem = s.mem.setFb (nextSel s) (s.mem.fb s.curSel) := rfl

@[simp] theorem beginFrame_agenda (s : State) : (beginFrame s).agenda = s.agenda := rfl

@[simp] theorem beginFrame_launch (s : State) : (beginFrame s).launch = s.launch := rfl

end Sys2Proof.Machine
end

