-- ==== Sys2Proof/Laws/Memory.lean ====
section
/-! SUPPORT. The laws of the stores: read after write, and every memory operation keeps the canonical form. -/

namespace Sys2Proof.Machine

variable {w : Nat}

/-! ## Read after write -/

@[simp] theorem Store.read_nil (a : Nat) : Store.read ([] : Store w) a = none := rfl

theorem Store.read_write (m : Store w) (a b : Nat) (v : BitVec w) :
    Store.read (Store.write m a v) b = if b = a then some v else Store.read m b := by
  induction m with
  | nil => simp [Store.write, Store.read]
  | cons c m ih =>
    obtain ⟨x, y⟩ := c
    simp only [Store.write]
    split
    · simp only [Store.read]
    · split
      · subst_vars; simp only [Store.read]; split <;> rfl
      · simp only [Store.read, ih]
        split_ifs <;> first | rfl | omega

theorem Store.read_erase (m : Store w) (a b : Nat) :
    Store.read (Store.erase m a) b = if b = a then none else Store.read m b := by
  induction m with
  | nil => simp [Store.erase, Store.read]
  | cons c m ih =>
    obtain ⟨x, y⟩ := c
    simp only [Store.erase]
    split
    · subst_vars; simp only [ih, Store.read]; split_ifs <;> rfl
    · simp only [Store.read, ih]
      split_ifs <;> first | rfl | omega

/-- Writing a cell and reading it back, and every other cell unchanged. -/
theorem readCell_storeCell (m : Store 16) (a b : Nat) (v : TileWord) :
    readCell (storeCell m a v) b = if b = a then v else readCell m b := by
  unfold readCell storeCell
  split
  · subst_vars; rw [Store.read_erase]; split_ifs <;> rfl
  · rw [Store.read_write]; split_ifs <;> rfl

theorem Store.read_writeBlock (m : Store w) (a b : Nat) (vs : List (BitVec w)) :
    Store.read (Store.writeBlock m a vs) b =
      if a ≤ b ∧ b < a + vs.length then vs[b - a]? else Store.read m b := by
  induction vs generalizing m a with
  | nil => simp only [Store.writeBlock, List.length_nil]; rw [if_neg (by omega)]
  | cons v vs ih =>
    simp only [Store.writeBlock, ih, Store.read_write, List.length_cons]
    by_cases hb : b = a
    · subst hb; rw [if_neg (by omega), if_pos rfl, if_pos (by omega)]; simp
    · by_cases h : a + 1 ≤ b ∧ b < a + 1 + vs.length
      · rw [if_pos h, if_pos (by omega), show b - a = (b - (a + 1)) + 1 by omega]; simp
      · rw [if_neg h, if_neg hb, if_neg (by omega)]

/-! ## The canonical form -/

theorem Store.mem_write {m : Store w} {a : Nat} {v : BitVec w} {c : Nat × BitVec w}
    (h : c ∈ Store.write m a v) : c = (a, v) ∨ c ∈ m := by
  induction m with
  | nil => simpa [Store.write] using h
  | cons d m ih =>
    simp only [Store.write] at h
    split at h
    · simpa using h
    · split at h
      · rcases List.mem_cons.1 h with h | h
        · exact .inl h
        · exact .inr (List.mem_cons_of_mem _ h)
      · rcases List.mem_cons.1 h with h | h
        · exact .inr (by simp [h])
        · exact (ih h).imp id (List.mem_cons_of_mem _)

theorem Store.mem_erase {m : Store w} {a : Nat} {c : Nat × BitVec w} (h : c ∈ Store.erase m a) : c ∈ m := by
  induction m with
  | nil => simp [Store.erase] at h
  | cons d m ih =>
    simp only [Store.erase] at h
    split at h
    · exact List.mem_cons_of_mem _ (ih h)
    · rcases List.mem_cons.1 h with h | h
      · simp [h]
      · exact List.mem_cons_of_mem _ (ih h)

theorem Store.sorted_cons {c : Nat × BitVec w} {m : Store w} :
    Store.sorted (c :: m) = true ↔ (∀ d ∈ m, c.1 < d.1) ∧ Store.sorted m = true := by
  simp [Store.sorted]

theorem Store.sorted_write {m : Store w} (h : Store.sorted m = true) (a : Nat) (v : BitVec w) :
    Store.sorted (Store.write m a v) = true := by
  induction m with
  | nil => simp [Store.write, Store.sorted]
  | cons c m ih =>
    obtain ⟨x, y⟩ := c
    have hc := Store.sorted_cons.1 h
    simp only [Store.write]
    split
    · refine Store.sorted_cons.2 ⟨fun d hd => ?_, h⟩
      rcases List.mem_cons.1 hd with rfl | hd
      · assumption
      · exact Nat.lt_trans ‹a < x› (hc.1 d hd)
    · split
      · subst_vars; exact Store.sorted_cons.2 ⟨hc.1, hc.2⟩
      · refine Store.sorted_cons.2 ⟨fun d hd => ?_, ih hc.2⟩
        rcases Store.mem_write hd with rfl | hd
        · simp only; omega
        · exact hc.1 d hd

theorem Store.sorted_erase {m : Store w} (h : Store.sorted m = true) (a : Nat) :
    Store.sorted (Store.erase m a) = true := by
  induction m with
  | nil => rfl
  | cons c m ih =>
    obtain ⟨x, y⟩ := c
    have hc := Store.sorted_cons.1 h
    simp only [Store.erase]
    split
    · exact ih hc.2
    · exact Store.sorted_cons.2 ⟨fun d hd => hc.1 d (Store.mem_erase hd), ih hc.2⟩

theorem Store.sorted_writeBlock {m : Store w} (h : Store.sorted m = true) (a : Nat) (vs : List (BitVec w)) :
    Store.sorted (Store.writeBlock m a vs) = true := by
  induction vs generalizing m a with
  | nil => exact h
  | cons v vs ih => exact ih (Store.sorted_write h a v) (a + 1)

theorem cellsCanonical_storeCell {m : Store 16} (h : cellsCanonical m = true) (c : Nat) (v : TileWord) :
    cellsCanonical (storeCell m c v) = true := by
  simp only [cellsCanonical, Bool.and_eq_true, List.all_eq_true, decide_eq_true_eq] at h ⊢
  unfold storeCell
  split
  · exact ⟨Store.sorted_erase h.1 c, fun d hd => h.2 d (Store.mem_erase hd)⟩
  · refine ⟨Store.sorted_write h.1 c v, fun d hd => ?_⟩
    rcases Store.mem_write hd with rfl | hd
    · assumption
    · exact h.2 d hd

/-! ## The range of the listed addresses -/

theorem Store.below_write {n : Nat} {m : Store w} {a : Nat} (h : Store.below n m = true) (ha : a < n) (v : BitVec w) :
    Store.below n (Store.write m a v) = true := by
  simp only [Store.below, List.all_eq_true, decide_eq_true_eq] at h ⊢
  intro c hc
  rcases Store.mem_write hc with rfl | hc
  · exact ha
  · exact h c hc

theorem Store.below_erase {n : Nat} {m : Store w} (h : Store.below n m = true) (a : Nat) :
    Store.below n (Store.erase m a) = true := by
  simp only [Store.below, List.all_eq_true, decide_eq_true_eq] at h ⊢
  exact fun c hc => h c (Store.mem_erase hc)

theorem Store.below_writeBlock {n : Nat} {m : Store w} {a : Nat} {vs : List (BitVec w)} (h : Store.below n m = true)
    (ha : a + vs.length ≤ n) : Store.below n (Store.writeBlock m a vs) = true := by
  induction vs generalizing m a with
  | nil => exact h
  | cons v vs ih =>
    rw [List.length_cons] at ha
    exact ih (Store.below_write h (by omega) v) (by omega)

theorem below_storeCell {n : Nat} {m : Store 16} {c : Nat} (h : Store.below n m = true) (hc : c < n) (v : TileWord) :
    Store.below n (storeCell m c v) = true := by
  unfold storeCell
  split
  · exact Store.below_erase h c
  · exact Store.below_write h hc v

theorem Memory.inRange_iff (p : Profile) (m : Memory) : m.inRange p = true ↔
    Store.below (romSize p) m.cmdRom = true ∧ Store.below (romSize p) m.assetRom = true ∧ Store.below p.fbCells m.fb0 = true ∧ Store.below p.fbCells m.fb1 = true ∧
      Store.below (p.tileSlots * p.tileBytes) m.tile = true := by
  simp [Memory.inRange, and_assoc]

/-! ## The whole memory -/

theorem Memory.wf_iff (m : Memory) : m.wf = true ↔
    Store.sorted m.cmdRom = true ∧ Store.sorted m.assetRom = true ∧ Store.sorted m.tile = true ∧
      cellsCanonical m.fb0 = true ∧ cellsCanonical m.fb1 = true := by
  simp [Memory.wf, and_assoc]

theorem Memory.canonical_fb {m : Memory} (h : m.wf = true) (i : BufSel) : cellsCanonical (m.fb i) = true := by
  have := (Memory.wf_iff m).1 h
  cases i
  · exact this.2.2.2.1
  · exact this.2.2.2.2

theorem Memory.wf_setFb {m : Memory} (h : m.wf = true) (i : BufSel) {b : Store 16} (hb : cellsCanonical b = true) :
    (m.setFb i b).wf = true := by
  have := (Memory.wf_iff m).1 h
  refine (Memory.wf_iff _).2 ?_
  cases i <;> simp_all [Memory.setFb]

/-- A cell write keeps the canonical form. -/
theorem writeNextCell_wf {s : State} (h : s.mem.wf = true) (c : Nat) (tw : TileWord) :
    (writeNextCell c tw s).mem.wf = true := by
  rw [writeNextCell_mem]
  exact Memory.wf_setFb h _ (cellsCanonical_storeCell (Memory.canonical_fb h _) c tw)

/-- The tile fetch keeps the canonical form. -/
theorem fetchTile_wf {s : State} (h : s.mem.wf = true) (bank slot : Nat) (block : List Byte) :
    (fetchTile bank slot block s).mem.wf = true := by
  have := (Memory.wf_iff _).1 h
  rw [fetchTile_mem]
  exact (Memory.wf_iff _).2 ⟨this.1, this.2.1, Store.sorted_writeBlock this.2.2.1 _ _, this.2.2.2⟩

/-- The clone of beginFrame keeps the canonical form. -/
theorem beginFrame_wf {s : State} (h : s.mem.wf = true) : (beginFrame s).mem.wf = true := by
  rw [beginFrame_mem]
  exact Memory.wf_setFb h _ (Memory.canonical_fb h _)

/-- Loading command bytes keeps the ROM's canonical form. -/
theorem loadCommand_sorted (p : Profile) (bank off : Nat) (bs : List Byte) {rom : List Host.Cell}
    (h : Store.sorted rom = true) : Store.sorted (loadCommand p bank off bs rom) = true := by
  induction bs generalizing off rom with
  | nil => exact h
  | cons b bs ih =>
    simp only [loadCommand]
    split
    · exact ih _ (Store.sorted_write h _ _)
    · exact h

theorem withFetchWord_wf {s : State} (h : s.mem.wf = true) (nbits w : Nat) : (s.withFetchWord nbits w).mem.wf = true := by
  have := (Memory.wf_iff _).1 h
  exact (Memory.wf_iff _).2 ⟨loadCommand_sorted _ _ _ _ this.1, this.2⟩

/-- Reset keeps the canonical form. -/
theorem hostReset_wf {s : State} (h : s.mem.wf = true) : (hostReset s).mem.wf = true := by
  have := (Memory.wf_iff _).1 h
  exact (Memory.wf_iff _).2 ⟨this.1, this.2.1, this.2.2.1, rfl, rfl⟩

/-- The memory at reset is in canonical form. -/
theorem reset_mem_wf : State.reset.mem.wf = true := rfl

/-! ## Reading buffers -/

@[simp] theorem Memory.fb_setFb_same (m : Memory) (i : BufSel) (b : Store 16) : (m.setFb i b).fb i = b := by
  cases i <;> rfl

theorem Memory.fb_setFb_ne (m : Memory) {i j : BufSel} (h : j ≠ i) (b : Store 16) : (m.setFb i b).fb j = m.fb j := by
  cases i <;> cases j <;> first | rfl | exact absurd rfl h

@[simp] theorem Memory.setFb_cmdRom (m : Memory) (i : BufSel) (b : Store 16) : (m.setFb i b).cmdRom = m.cmdRom := by
  cases i <;> rfl

@[simp] theorem Memory.setFb_assetRom (m : Memory) (i : BufSel) (b : Store 16) : (m.setFb i b).assetRom = m.assetRom := by
  cases i <;> rfl

@[simp] theorem Memory.setFb_tile (m : Memory) (i : BufSel) (b : Store 16) : (m.setFb i b).tile = m.tile := by
  cases i <;> rfl

@[simp] theorem BufSel.other_other (i : BufSel) : i.other.other = i := by cases i <;> rfl

theorem BufSel.other_ne (i : BufSel) : i.other ≠ i := by cases i <;> decide

/-- What `writeNextCell` does to the cells: the one cell of the next buffer, and no other. -/
theorem cellAt_writeNextCell (c : Nat) (tw : TileWord) (s : State) (i : BufSel) (d : Nat) :
    cellAt (writeNextCell c tw s) i d = if i = s.curSel.other ∧ d = c then tw else cellAt s i d := by
  unfold cellAt
  rw [writeNextCell_mem]
  by_cases hi : i = s.curSel.other
  · subst hi
    simp only [nextSel, Memory.fb_setFb_same, readCell_storeCell, true_and]
  · rw [Memory.fb_setFb_ne _ (show i ≠ nextSel s from hi), if_neg (fun h => hi h.1)]

end Sys2Proof.Machine
end

