-- ==== Sys2Proof/Laws/Ops.lean ====
section
/-! SUPPORT. One lemma per shared operation that says everything it can do; later proofs cite it and do not unfold the
operation. -/

namespace Sys2Proof.Machine

/-! ## Ending an instruction -/

/-- An instruction's end is a next state: its effect, or a precise fault. -/
theorem settle_next {s t : State} {r : Except FaultCode State} (h : settle s r = .next t) :
    r = .ok t ∨ ∃ code, r = .error code ∧ t = raiseAtInstr code s := by
  cases r with
  | ok u => simp only [settle, Host.Outcome.next.injEq] at h; exact .inl (by rw [h])
  | error code => simp only [settle, Host.Outcome.next.injEq] at h; exact .inr ⟨code, rfl, h.symm⟩

theorem settle_answers (s : State) (r : Except FaultCode State) : ∃ t, settle s r = .next t := by
  cases r with
  | ok u => exact ⟨u, rfl⟩
  | error code => exact ⟨_, rfl⟩

/-- What a fault at the instruction changes: `FAULT` and `PHASE`. -/
theorem raiseAtInstr_eq (code : FaultCode) (s : State) : raiseAtInstr code s =
    { s with fault := some ⟨code, s.cmdBank, s.cmdOff, opcodeByte s⟩, phase := .faulted } := rfl

/-! ## Placement -/

theorem advanceBy_one (p : Profile) (c : Nat) : advanceBy p c 1 = advance1 p c := rfl

/-- Everything `placeAndAdvance` can do. -/
theorem placeAndAdvance_cases (c : Nat) (tw : TileWord) (stride : Nat) (s : State) :
    (s.launch.prof.fbCells ≤ c ∧ placeAndAdvance c tw stride s = .error .posRange) ∨
      (c < s.launch.prof.fbCells ∧ placeAndAdvance c tw stride s =
        .ok (moveCursor (advanceBy s.launch.prof c stride) (writeNextCell c tw s))) := by
  unfold placeAndAdvance
  split
  · exact .inl ⟨‹_›, rfl⟩
  · exact .inr ⟨by omega, rfl⟩

/-- Everything `placeFetched` can do, in the order of 41_placement R110. -/
theorem placeFetched_cases (pos tile abank aoff : Nat) (s : State) :
    let bank := s.launch.assetBankBase + abank
    let slot := tileIndex s.launch.prof (tileWord tile)
    (Config.topBank < bank ∧ placeFetched pos tile abank aoff s = .error .assetBankRange) ∨
    (bank ≤ Config.topBank ∧ s.launch.prof.tileSlots ≤ slot ∧ placeFetched pos tile abank aoff s = .error .slotRange) ∨
    (bank ≤ Config.topBank ∧ slot < s.launch.prof.tileSlots ∧ assetBlock s bank aoff = none ∧
      placeFetched pos tile abank aoff s = .error .assetMissing) ∨
    (∃ block, bank ≤ Config.topBank ∧ slot < s.launch.prof.tileSlots ∧ assetBlock s bank aoff = some block ∧
      placeFetched pos tile abank aoff s =
        placeAndAdvance pos (tileWord tile) s.launch.prof.strideA (fetchTile bank slot block s)) := by
  intro bank slot
  unfold placeFetched
  by_cases h1 : Config.topBank < bank
  · exact .inl ⟨h1, if_pos h1⟩
  · by_cases h2 : s.launch.prof.tileSlots ≤ slot
    · exact .inr (.inl ⟨by omega, h2, by simp only [bank, slot] at h1 h2; rw [if_neg h1, if_pos h2]⟩)
    · simp only [bank, slot] at h1 h2 ⊢
      rw [if_neg h1, if_neg h2]
      cases h3 : assetBlock s (s.launch.assetBankBase + abank) aoff with
      | none => exact .inr (.inr (.inl ⟨by omega, by omega, rfl, rfl⟩))
      | some block => exact .inr (.inr (.inr ⟨block, by omega, by omega, rfl, rfl⟩))

/-- A tile block holds as many bytes as were asked for, each the asset ROM's (20_memory R46). -/
theorem assetBytes_some {s : State} {bank off n : Nat} {bs : List Byte} (h : assetBytes s bank off n = some bs) :
    bs.length = n ∧ ∀ j < n, assetRead s bank (off + j) = bs[j]? := by
  induction n generalizing off bs with
  | zero =>
    simp only [assetBytes, Option.some.injEq] at h
    exact ⟨by simp [← h], fun j hj => absurd hj (Nat.not_lt_zero j)⟩
  | succ n ih =>
    simp only [assetBytes] at h
    split at h
    · rename_i b rest hb hrest
      simp only [Option.some.injEq] at h
      subst h
      obtain ⟨hl, hr⟩ := ih hrest
      refine ⟨by simp [hl], fun j hj => ?_⟩
      cases j with
      | zero => simpa using hb
      | succ j => rw [show off + (j + 1) = off + 1 + j by omega, hr j (by omega)]; simp
    · cases h

/-- A tile block is there exactly where the asset ROM holds every one of its bytes (41_placement R110, check 3). -/
theorem assetBlock_isSome_iff (s : State) (bank aoff : Nat) :
    (assetBlock s bank aoff).isSome = true ↔
      ∀ j < s.launch.prof.tileBytes, (assetRead s bank (aoff * s.launch.prof.tileBytes + j)).isSome = true := by
  have h : ∀ n off, (assetBytes s bank off n).isSome = true ↔ ∀ j < n, (assetRead s bank (off + j)).isSome = true := by
    intro n
    induction n with
    | zero => exact fun off => ⟨fun _ j hj => absurd hj (Nat.not_lt_zero j), fun _ => rfl⟩
    | succ n ih =>
      intro off
      constructor
      · intro hb j hj
        obtain ⟨bs, hb⟩ := Option.isSome_iff_exists.1 hb
        obtain ⟨hl, hr⟩ := assetBytes_some hb
        rw [hr j hj]
        simp [hl, hj]
      · intro hr
        obtain ⟨b, hb⟩ := Option.isSome_iff_exists.1 (hr 0 (by omega))
        obtain ⟨bs, hbs⟩ := Option.isSome_iff_exists.1 ((ih (off + 1)).2 fun j hj => by
          rw [show off + 1 + j = off + (j + 1) by omega]; exact hr (j + 1) (by omega))
        rw [Nat.add_zero] at hb
        simp [assetBytes, hb, hbs]
  exact h _ _

/-- Everything a ROM read can do (20_memory R40 to R42). -/
theorem romRead_cases (p : Profile) (rom : List Host.Cell) (bank off : Nat) :
    (bank ≤ Config.topBank ∧ off < p.bankSize ∧ romRead p rom bank off = Store.read rom (linearOffset p bank off)) ∨
      (¬(bank ≤ Config.topBank ∧ off < p.bankSize) ∧ romRead p rom bank off = none) := by
  unfold romRead
  split
  · rename_i h; exact .inl ⟨h.1, h.2, rfl⟩
  · exact .inr ⟨‹_›, rfl⟩

/-- Everything a read of tile memory can do (20_memory R40). -/
theorem tileByte_cases (s : State) (slot j : Nat) :
    (slot < s.launch.prof.tileSlots ∧ j < s.launch.prof.tileBytes ∧
      tileByte s slot j = Store.read s.mem.tile (slot * s.launch.prof.tileBytes + j)) ∨
      (¬(slot < s.launch.prof.tileSlots ∧ j < s.launch.prof.tileBytes) ∧ tileByte s slot j = none) := by
  unfold tileByte
  split
  · rename_i h; exact .inl ⟨h.1, h.2, rfl⟩
  · exact .inr ⟨‹_›, rfl⟩

/-- A command read in an existing bank: every 8-bit bank exists. -/
theorem cmdRead_eq (s : State) (bank : Bank) {off : Nat} (h : off < s.launch.prof.bankSize) :
    cmdRead s bank off = Store.read s.mem.cmdRom (linearOffset s.launch.prof bank.toNat off) :=
  if_pos ⟨by have := bank.isLt; simp only [Config.topBank]; omega, h⟩

/-- Asset reads depend on the asset ROM and the launch parameters alone (20_memory R42). -/
theorem assetRead_congr {s t : State} (hm : t.mem.assetRom = s.mem.assetRom) (hl : t.launch = s.launch) (bank off : Nat) :
    assetRead t bank off = assetRead s bank off := by
  simp only [assetRead, hm, hl]

theorem assetBlock_congr {s t : State} (hm : t.mem.assetRom = s.mem.assetRom) (hl : t.launch = s.launch) (bank aoff : Nat) :
    assetBlock t bank aoff = assetBlock s bank aoff := by
  have h : ∀ n off, assetBytes t bank off n = assetBytes s bank off n := by
    intro n
    induction n with
    | zero => intro off; rfl
    | succ n ih => intro off; simp only [assetBytes, assetRead_congr hm hl, ih]
  simp only [assetBlock, hl, h]

/-- Command reads depend on the command ROM and the launch parameters alone (20_memory R41). -/
theorem cmdRead_congr {s t : State} (hm : t.mem.cmdRom = s.mem.cmdRom) (hl : t.launch = s.launch) (bank : Bank) (off : Nat) :
    cmdRead t bank off = cmdRead s bank off := by
  simp only [cmdRead, hm, hl]

/-- Everything `switchBank` can do. -/
theorem switchBank_cases (s : State) :
    (s.cmdBank.toNat = Config.topBank ∧ switchBank s = .error .cmdBankRange) ∨
      (s.cmdBank.toNat ≠ Config.topBank ∧ switchBank s = .ok { s with cmdBank := s.cmdBank + 1, cmdOff := 0 }) := by
  unfold switchBank
  split
  · exact .inl ⟨‹_›, rfl⟩
  · exact .inr ⟨‹_›, rfl⟩

/-! ## Command fetch -/

/-- Everything `readCmd` can do (42_stream_control R121). -/
theorem readCmd_cases (s : State) (i : Nat) :
    (s.launch.prof.bankSize ≤ s.cmdOff + i ∧ readCmd s i = .error .cmdPastBank) ∨
    (s.cmdOff + i < s.launch.prof.bankSize ∧ cmdRead s s.cmdBank (s.cmdOff + i) = none ∧ readCmd s i = .error .cmdMissing) ∨
    (∃ b, s.cmdOff + i < s.launch.prof.bankSize ∧ cmdRead s s.cmdBank (s.cmdOff + i) = some b ∧ readCmd s i = .ok b) := by
  unfold readCmd
  split
  · exact .inl ⟨‹_›, rfl⟩
  · cases h : cmdRead s s.cmdBank (s.cmdOff + i) with
    | none => exact .inr (.inl ⟨by omega, rfl, rfl⟩)
    | some b => exact .inr (.inr ⟨b, by omega, rfl, rfl⟩)

/-- Operand bytes read: as many as asked for, each in the bank. -/
theorem readOperands_ok {s : State} {i n : Nat} {bs : List Byte} (h : readOperands s i n = .ok bs) :
    bs.length = n ∧ ∀ j < n, readCmd s (i + j) = .ok (windowByte bs j) := by
  induction n generalizing i bs with
  | zero =>
    simp only [readOperands, Except.ok.injEq] at h
    exact ⟨by simp [← h], fun j hj => absurd hj (Nat.not_lt_zero j)⟩
  | succ n ih =>
    simp only [readOperands] at h
    split at h
    · cases h
    · rename_i b hb
      split at h
      · cases h
      · rename_i rest hrest
        simp only [Except.ok.injEq] at h
        subst h
        obtain ⟨hl, hr⟩ := ih hrest
        refine ⟨by simp [hl], fun j hj => ?_⟩
        cases j with
        | zero => simpa [windowByte] using hb
        | succ j => rw [show i + (j + 1) = i + 1 + j by omega, hr j (by omega)]; simp [windowByte]

/-- A byte that the command ROM holds is read. -/
theorem readCmd_of_cmdRead {s : State} {i : Nat} {b : Byte} (h : cmdRead s s.cmdBank (s.cmdOff + i) = some b) :
    readCmd s i = .ok b := by
  rcases readCmd_cases s i with ⟨h1, -⟩ | ⟨-, h1, -⟩ | ⟨b', -, h1, e⟩
  · simp [cmdRead, romRead, Nat.not_lt.2 h1] at h
  · rw [h] at h1; cases h1
  · rw [h] at h1; cases h1; exact e

/-- Operand bytes that can all be read are read. -/
theorem readOperands_of_readCmd {s : State} {i : Nat} {bs : List Byte}
    (h : ∀ j < bs.length, readCmd s (i + j) = .ok (windowByte bs j)) : readOperands s i bs.length = .ok bs := by
  induction bs generalizing i with
  | nil => rfl
  | cons b bs ih =>
    have h0 : readCmd s i = .ok b := h 0 (by simp)
    have hr := ih (i := i + 1) fun j hj => by
      rw [show i + 1 + j = i + (j + 1) by omega]; exact h (j + 1) (by simpa using hj)
    simp only [List.length_cons, readOperands, h0, hr]

/-- A fetched window is an opcode byte and exactly its class's operand bytes (40_codec R80). -/
theorem fetchWindow_ok {s : State} {W : List Byte} (h : fetchWindow s = .ok W) :
    ∃ b0 bs, W = b0 :: bs ∧ readCmd s 0 = .ok b0 ∧
      readOperands s 1 (operandCount (classOf s.launch.prof b0)) = .ok bs := by
  unfold fetchWindow at h
  split at h
  · cases h
  · rename_i b0 h0
    split at h
    · cases h
    · rename_i bs hbs
      simp only [Except.ok.injEq] at h
      exact ⟨b0, bs, h.symm, h0, hbs⟩

/-- The codec decodes every window the Engine builds, with no byte left over. -/
theorem decode_fetched {s : State} {W : List Byte} (h : fetchWindow s = .ok W) :
    ∃ i, decode s.launch.prof W = .ok (i, []) := by
  obtain ⟨b0, bs, rfl, -, hbs⟩ := fetchWindow_ok h
  have hl := (readOperands_ok hbs).1
  exact ⟨_, by simp only [decode]; rw [if_neg (by omega), List.drop_of_length_le (by omega)]⟩

/-! ## The governor and the other agents -/

/-- Everything the Waiting and HostWaiting steps can do (43_flip_governor R143). -/
theorem waitForBudget_cases (critical : Phase) (s : State) :
    (s.budget = none ∧ waitForBudget critical s = raiseFault .unwritten none s) ∨
    (∃ k, s.budget = some k ∧ k.toNat ≤ s.tick.toNat ∧
      waitForBudget critical s = { s with tickMasked := true, phase := critical }) ∨
    (∃ k, s.budget = some k ∧ s.tick.toNat < k.toNat ∧ waitForBudget critical s = s) := by
  unfold waitForBudget
  cases h : s.budget with
  | none => exact .inl ⟨rfl, rfl⟩
  | some k =>
    by_cases hk : k.toNat ≤ s.tick.toNat
    · exact .inr (.inl ⟨k, rfl, hk, by simp [waitReady, hk]⟩)
    · exact .inr (.inr ⟨k, rfl, by omega, by simp [waitReady, hk]⟩)

/-- Everything the Consuming and HostConsuming steps can do (43_flip_governor R144). -/
theorem consumeBudget_cases (after : Phase) (s : State) :
    (s.budget = none ∧ consumeBudget after s = raiseFault .unwritten none s) ∨
    (∃ k, s.budget = some k ∧
      consumeBudget after s = { s with tick := consumedTick s.tick k, tickMasked := false, phase := after }) := by
  unfold consumeBudget
  cases h : s.budget with
  | none => exact .inl ⟨rfl, rfl⟩
  | some k => exact .inr ⟨k, rfl, rfl⟩

/-- The decrement is exact where the budget is covered (43_flip_governor R144). -/
theorem consumedTick_toNat {tick : Tick} {k : Budget} (h : k.toNat ≤ tick.toNat) :
    (consumedTick tick k).toNat = tick.toNat - k.toNat := by
  have hk : (k.setWidth 16).toNat = k.toNat := by simp; omega
  simp only [consumedTick, waitReady, decide_eq_true h, if_true]
  rw [BitVec.toNat_sub, hk]
  omega

/-- Everything a host wait request can do (43_flip_governor R152). -/
theorem hostWait_cases (k : Nat) (s : State) :
    (s.phase = .done ∧ s.hostReq = none ∧ k ≤ 7 ∧ hostWait k s = .next { s with hostReq := some (BitVec.ofNat 4 k) }) ∨
      (¬(s.phase = .done ∧ s.hostReq = none ∧ k ≤ 7) ∧ hostWait k s = .refused .hostWaitRefused) := by
  unfold hostWait
  split
  · rename_i h; exact .inl ⟨h.1, h.2.1, h.2.2, rfl⟩
  · exact .inr ⟨‹_›, rfl⟩

/-- Everything a launch can do (00_scope R3; logs 15 and 18). -/
theorem boot_cases (l : Launch) (cmdRom assetRom tile : List Host.Cell) :
    (launchOk l cmdRom assetRom tile = true ∧
      boot l cmdRom assetRom tile = .next (State.resetWith l cmdRom assetRom tile)) ∨
    (launchOk l cmdRom assetRom tile = false ∧ boot l cmdRom assetRom tile = .refused .launchOutsideSpec) := by
  unfold boot
  cases launchOk l cmdRom assetRom tile
  · exact .inr ⟨rfl, rfl⟩
  · exact .inl ⟨rfl, rfl⟩

/-- What a launch that is not refused has met. -/
theorem launchOk_iff (l : Launch) (cmdRom assetRom tile : List Host.Cell) :
    launchOk l cmdRom assetRom tile = true ↔
      profileOk l.prof = true ∧ l.cmdOffStart ≤ l.prof.bankSize ∧
        (State.resetWith l cmdRom assetRom tile).mem.wf = true ∧
        (State.resetWith l cmdRom assetRom tile).mem.inRange l.prof = true := by
  simp [launchOk, contentsOk, and_assoc]

/-- Everything a tick can do (60_exceptions R163, R164). -/
theorem tickEvent_cases (s : State) :
    (s.tickMasked = true ∧ tickEvent s = { s with tickPending := true }) ∨
      (s.tickMasked = false ∧ tickEvent s = { s with tick := s.tick + 1 }) := by
  unfold tickEvent
  cases s.tickMasked
  · exact .inr ⟨rfl, rfl⟩
  · exact .inl ⟨rfl, rfl⟩

/-- Everything the delivery turn can do (60_exceptions R165). -/
theorem deliverTick_cases (s : State) :
    (deliveryEnabled s = true ∧ deliverTick s = { s with tick := s.tick + 1, tickPending := false }) ∨
      (deliveryEnabled s = false ∧ deliverTick s = s) := by
  unfold deliverTick
  cases deliveryEnabled s
  · exact .inr ⟨rfl, rfl⟩
  · exact .inl ⟨rfl, rfl⟩

/-! ## Turns -/

/-- What a step is, by the agenda. -/
theorem step_eq (s : State) : step s =
    match s.agenda with
    | [] => takeTurn (defaultTurn s) s
    | t :: rest => takeTurn t { s with agenda := rest } := rfl

theorem step_engine {s : State} {rest : List Turn} (h : s.agenda = .engine :: rest) :
    step s = engineStep { s with agenda := rest } := by
  rw [step_eq, h]; rfl

/-- With no turn named and a step to make, the Engine moves. -/
theorem step_default {s : State} (h : s.agenda = []) (he : engineEnabled s = true) : step s = engineStep s := by
  rw [step_eq, h]
  simp only [defaultTurn, he, if_true, takeTurn]

/-- In Decoding the Engine runs the Decoding step (42_stream_control R120). -/
theorem engineStep_decoding {s : State} (hp : s.phase = .decoding) (hd : s.displayOnly = false) :
    engineStep s = stepDecode s := by
  simp [engineStep, engineEnabled, hp, hd]

end Sys2Proof.Machine
end

