-- ==== Sys2Proof/Laws/PerInstr.lean ====
section
/-! SUPPORT. Statements made for every instruction, one lemma per constructor (LAWS.json). -/

namespace Sys2Proof

theorem deposit_length (f : FieldLayout) (v : Nat) (W : List Byte) : (deposit f v W).length = W.length := by
  induction f generalizing v W with
  | nil => rfl
  | cons sl rest ih => simp [deposit, ih, addToByte]

theorem blankWindow_length (p : Profile) (cls : OpClass) : (blankWindow p cls).length = 1 + operandCount cls := by
  simp [blankWindow, Nat.add_comm]

/-- The byte `opcodePattern` finds is of its class, where the class has an opcode. -/
theorem classOf_opcodePattern {p : Profile} {cls : OpClass} {b : Byte}
    (h : allBytes.find? (fun b => classOf p b == cls) = some b) : classOf p (opcodePattern p cls) = cls := by
  have := List.find?_some h
  simpa [opcodePattern, h] using this

/-- The byte `eofOpcode` finds is the EOF code of its budget, where the profile has one (30_encoding R64(b)). -/
theorem eofOpcode_spec {p : Profile} {k : Budget} {b : Byte}
    (h : allBytes.find? (fun b => classOf p b == .endFrame && budgetOf b == k) = some b) :
    classOf p (eofOpcode p k) = .endFrame ∧ budgetOf (eofOpcode p k) = k := by
  have := List.find?_some h
  simpa [eofOpcode, h] using this

/-- The opcode bytes under both reference profiles (30_encoding table E-1). -/
theorem opcodePattern_reference {p : Profile} (h : p.isReference) :
    opcodePattern p .placeA = 0x00 ∧ opcodePattern p .placeB = 0x40 ∧ opcodePattern p .put = 0x80 ∧
      opcodePattern p .bank = 0xF0 ∧ opcodePattern p .borderA = 0xF1 ∧ opcodePattern p .borderB = 0xF2 ∧
      opcodePattern p .endStream = 0xF3 := by
  rcases h with rfl | rfl <;> decide +kernel

/-- EOF `k` is `0xF8 + k` under both reference profiles (30_encoding R68). -/
theorem eofOpcode_reference {p : Profile} (h : p.isReference) (k : Budget) : eofOpcode p k = 0xF8 + k.setWidth 8 := by
  rcases h with rfl | rfl <;> revert k <;> decide +kernel

/-- Under every profile an instruction is encoded in one opcode byte and its class's operand bytes (30_encoding R60). -/
def Laws.EncodedLength.Statement (i : Instr) : Prop :=
  ∀ p : Profile, (encode p i).length = 1 + operandCount (classOfInstr i)

namespace Laws.EncodedLength

theorem pla (pos tile abank aoff : Nat) : Statement (.pla pos tile abank aoff) := fun p => by
  simp only [encode, deposit_length, blankWindow_length, classOfInstr]

theorem plb (pos tile : Nat) : Statement (.plb pos tile) := fun p => by
  simp only [encode, deposit_length, blankWindow_length, classOfInstr]

theorem put (tile : Nat) : Statement (.put tile) := fun p => by
  simp only [encode, deposit_length, blankWindow_length, classOfInstr]

theorem bank : Statement .bank := fun p => blankWindow_length p .bank

theorem borda : Statement .borda := fun p => blankWindow_length p .borderA

theorem bordb : Statement .bordb := fun p => blankWindow_length p .borderB

theorem eos : Statement .eos := fun p => blankWindow_length p .endStream

theorem eof (k : Budget) : Statement (.eof k) := fun _ => rfl

theorem reservedC0 (b0 : Byte) : Statement (.reservedC0 b0) := fun _ => rfl

theorem reservedE0 (b0 : Byte) : Statement (.reservedE0 b0) := fun _ => rfl

theorem reservedF4 (b0 : Byte) : Statement (.reservedF4 b0) := fun _ => rfl

end Laws.EncodedLength

end Sys2Proof
end

