-- ==== Sys2Proof/WellFormed.lean ====
section
/-! DEFINITION. Which instructions an encoding can express under a profile (30_encoding R65, R68): the operand ranges,
and the opcode bytes of the reserved rows. -/

namespace Sys2Proof

/-- Every operand fits the width its layout gives it (30_encoding R68), and a reserved opcode byte lies in the row
its constructor names (30_encoding table E-1). -/
def WellFormed (p : Profile) : Instr → Bool
  | .pla pos tile abank aoff =>
    decide (pos < 2 ^ fieldWidth p.layout.aPos) && decide (tile < 2 ^ fieldWidth p.layout.aTile) &&
      decide (abank < 2 ^ fieldWidth p.layout.aBank) && decide (aoff < 2 ^ fieldWidth p.layout.aOff)
  | .plb pos tile => decide (pos < 2 ^ fieldWidth p.layout.bPos) && decide (tile < 2 ^ fieldWidth p.layout.bTile)
  | .put tile => decide (tile < 2 ^ fieldWidth p.layout.mTile)
  | .bank => true
  | .borda => true
  | .bordb => true
  | .eos => true
  | .eof _ => true
  | .reservedC0 b0 => classOf p b0 == .reservedC0
  | .reservedE0 b0 => classOf p b0 == .reservedE0
  | .reservedF4 b0 => classOf p b0 == .reservedF4

end Sys2Proof
end

