-- ==== Sys2Proof/Machine/Assembler.lean ====
section
/-! DEFINITION. The assembler's rule on operand ranges (30_encoding R68); its text syntax is notation only. -/

namespace Sys2Proof.Machine

/-- A reserved opcode has no assembly name: `.byte` writes it (30_encoding R68). -/
def hasMnemonic : Instr → Bool
  | .pla _ _ _ _ => true
  | .plb _ _ => true
  | .put _ => true
  | .bank => true
  | .borda => true
  | .bordb => true
  | .eos => true
  | .eof _ => true
  | .reservedC0 _ => false
  | .reservedE0 _ => false
  | .reservedF4 _ => false

/-- The bytes the assembler emits: an operand out of its range is an assembly error, not a truncation. -/
def assemble (p : Profile) (i : Instr) : Option (List Byte) :=
  if hasMnemonic i && WellFormed p i then some (encode p i) else none

end Sys2Proof.Machine
end

