-- ==== Sys2Proof/Machine/Display.lean ====
section
/-! DEFINITION. The Display agent's view (10_state R23, 20_memory R45, R50): it reads `FB[DISP_ACTIVE]`, `Tile` and
`DISP_BORDER`, and writes nothing. -/

namespace Sys2Proof.Machine

/-- The displayed cell `c`, if the grid has one (10_state R24). -/
def displayedCell (s : State) (c : Nat) : Option TileWord :=
  if c < s.launch.prof.fbCells then some (cellAt s s.dispActive c) else none

/-- The border the Display shows. -/
def displayedBorder (s : State) : Border := s.dispBorder

/-- The displayed cell's graphic: byte `j` of the tile slot the cell names (20_memory R58). -/
def displayedTileByte (s : State) (c j : Nat) : Option Byte :=
  match displayedCell s c with
  | none => none
  | some tw => tileByte s (tileIndex s.launch.prof tw) j

/-- `FB_BASE[i]`. -/
def bufferBase (s : State) : BufSel → Nat
  | .fb0 => s.launch.fbBase0
  | .fb1 => s.launch.fbBase1

/-- A cell's byte in platform memory, little-endian: byte 0 is bits 7:0, byte 1 is bits 15:8 (20_memory R45). -/
def cellByte (tw : TileWord) (hi : Bool) : Byte := if hi then tw.extractLsb' 8 8 else tw.extractLsb' 0 8

/-- The byte the platform sees at address `a` of buffer `i`: cell `c` occupies `FB_BASE[i] + 2c` and the next byte
(20_memory R45). -/
def platformByte (s : State) (i : BufSel) (a : Nat) : Option Byte :=
  if bufferBase s i ≤ a ∧ a < bufferBase s i + 2 * s.launch.prof.fbCells then
    some (cellByte (cellAt s i ((a - bufferBase s i) / 2)) ((a - bufferBase s i) % 2 == 1))
  else none

end Sys2Proof.Machine
end

