-- ==== Sys2Proof/Machine/Registers.lean ====
section
/-! DEFINITION. The register file as 10_state table S-1 numbers it, and the status outputs the Host reads (10_state
R32): a read-only view of State. -/

namespace Sys2Proof.Machine

/-- The value of `PHASE` as its 3 bits (10_state R11). -/
def phaseBits : Phase → BitVec 3
  | .decoding => 0
  | .waiting => 1
  | .consuming => 2
  | .flipping => 3
  | .done => 4
  | .hostWaiting => 5
  | .hostConsuming => 6
  | .faulted => 7

/-- The value of `SIGNAL` as its 2 bits (10_state R27). -/
def signalBits : Signal → BitVec 2
  | .none => 0
  | .moreFrames => 1
  | .streamDone => 2

/-- The number of a fault code (60_exceptions table X-1). -/
def faultNumber : FaultCode → Nat
  | .reservedOpcode => 1
  | .cmdPastBank => 2
  | .cmdMissing => 3
  | .cmdBankRange => 4
  | .posRange => 5
  | .assetBankRange => 6
  | .slotRange => 7
  | .assetMissing => 8
  | .unwritten => 9

/-- The index a buffer name stands for (10_state R21). -/
def bufIndex : BufSel → Nat
  | .fb0 => 0
  | .fb1 => 1

/-- What a register holds: a number, an optional number, or `FAULT`'s optional record. -/
inductive RegView where
  | value (v : Nat)
  | optional (v : Option Nat)
  | record (code bank off : Nat) (op : Option Nat)
  | noRecord
deriving DecidableEq, Repr

/-- Register `n` of table S-1, numbers 0 to 16. -/
def regView (s : State) (n : Nat) : Option RegView :=
  match n with
  | 0 => some (.value (phaseBits s.phase).toNat)
  | 1 => some (.value s.cmdBank.toNat)
  | 2 => some (.value s.cmdOff)
  | 3 => some (.optional (s.assetBank.map BitVec.toNat))
  | 4 => some (.value s.cursor)
  | 5 => some (.optional (s.budget.map BitVec.toNat))
  | 6 => some (.value s.tick.toNat)
  | 7 => some (.value s.tickMasked.toNat)
  | 8 => some (.value s.tickPending.toNat)
  | 9 => some (.value (bufIndex s.curSel))
  | 10 => some (.optional (s.pendingBorder.map BitVec.toNat))
  | 11 => some (.value (bufIndex s.dispActive))
  | 12 => some (.value s.dispBorder.toNat)
  | 13 => some (.value s.displayOnly.toNat)
  | 14 => some (.value (signalBits s.signal).toNat)
  | 15 =>
    some (match s.fault with
      | none => .noRecord
      | some f => .record (faultNumber f.code) f.bank.toNat f.off (f.op.map BitVec.toNat))
  | 16 => some (.optional (s.hostReq.map BitVec.toNat))
  | _ => none

end Sys2Proof.Machine
end

