-- ==== Sys2Proof/Safety.lean ====
section
/-! DEFINITION. What counts as a safe run: the invariant of 10_state R30 with what its proof needs, the end of a run,
and the terms the statements use. -/

namespace Sys2Proof.Machine

/-- The phases of the critical section (10_state R19). -/
def Phase.critical : Phase → Bool
  | .consuming => true
  | .hostConsuming => true
  | .decoding => false
  | .waiting => false
  | .flipping => false
  | .done => false
  | .hostWaiting => false
  | .faulted => false

/-- The phases between an EOF and the flip that follows it (43_flip_governor R140). -/
def Phase.betweenFrames : Phase → Bool
  | .waiting => true
  | .consuming => true
  | .flipping => true
  | .decoding => false
  | .done => false
  | .hostWaiting => false
  | .hostConsuming => false
  | .faulted => false

/-- The phases after EOS (43_flip_governor R151 to R153). -/
def Phase.afterStream : Phase → Bool
  | .done => true
  | .hostWaiting => true
  | .hostConsuming => true
  | .decoding => false
  | .waiting => false
  | .consuming => false
  | .flipping => false
  | .faulted => false

/-- The invariant of the block: 10_state R30 (a) to (e), that a needed budget has been written (R34) and covers
Consuming (43_flip_governor R149), what `SIGNAL`, `DISPLAY_ONLY`, `FAULT` and `HOST_REQ` say of the phase, and the form
of memory, for the profiles in scope. -/
structure Inv (s : State) : Prop where
  profile : s.launch.prof.isReference
  entry : s.launch.cmdOffStart ≤ s.launch.prof.bankSize
  memForm : s.mem.wf = true
  memRange : s.mem.inRange s.launch.prof = true
  /-- R30 (a) -/
  active : s.dispActive = s.curSel
  /-- R30 (b) -/
  masked : s.tickMasked = s.phase.critical
  /-- R30 (c) -/
  latched : s.tickPending = true → s.tickMasked = true ∨ deliveryEnabled s = true
  /-- R30 (d) -/
  cursorLe : s.cursor ≤ s.launch.prof.fbCells
  /-- R30 (e) -/
  offLe : s.cmdOff ≤ s.launch.prof.bankSize
  budgetWritten : s.phase = .waiting ∨ s.phase = .hostWaiting → s.budget.isSome = true
  budgetCovered : s.phase.critical = true → ∃ k, s.budget = some k ∧ k.toNat ≤ s.tick.toNat
  faultPhase : s.phase = .faulted ↔ s.fault.isSome = true
  displayOnlyIff : s.displayOnly = s.phase.afterStream
  signalFrame : s.signal = if s.phase.betweenFrames then .moreFrames else if s.phase.afterStream then .streamDone else .none
  hostReqIn : ∀ k, s.hostReq = some k → k.toNat ≤ 7 ∧ s.phase = .done

/-- A run has ended (00_scope R9): the Engine is in Done, the Host waits for nothing, and no fault is recorded. -/
def Final (s : State) : Prop := s.phase = .done ∧ s.hostReq = none ∧ s.fault = none

/-- The Engine has the turn: the agenda names it, or names no one and the Engine has a step. -/
def EngineTurn (s : State) : Prop :=
  (s.agenda = [] ∧ engineEnabled s = true) ∨ ∃ rest, s.agenda = .engine :: rest

/-- The state with the turn that is being taken removed from the agenda. -/
def popTurn (s : State) : State := { s with agenda := s.agenda.tail }

/-- The next turn is not the Host's reset. -/
def NotReset (s : State) : Prop := ∀ rest, s.agenda ≠ .hostReset :: rest

/-- The next turn is not a host wait request. -/
def NotHostWait (s : State) : Prop := ∀ k rest, s.agenda ≠ .hostWait k :: rest

/-- Instructions executed one after the other, stopping where `exec` stops. -/
def execAll : List Instr → State → Host.Outcome State Fault Refusal
  | [], s => .next s
  | i :: is, s =>
    match exec i s with
    | .next t => execAll is t
    | .fault f => .fault f
    | .refused r => .refused r

/-- `n` steps of the block, stopping at a fault or a refusal of the step function. -/
def run : Nat → State → Host.Outcome State Fault Refusal
  | 0, s => .next s
  | n + 1, s =>
    match step s with
    | .next t => run n t
    | .fault f => .fault f
    | .refused r => .refused r

/-- What no placement touches outside the frame buffers: tile memory and the ROMs. -/
def SameTilesAndRoms (s t : State) : Prop :=
  t.mem.tile = s.mem.tile ∧ t.mem.cmdRom = s.mem.cmdRom ∧ t.mem.assetRom = s.mem.assetRom

/-- Every cell of both buffers reads as before but cell `c` of the next buffer, which holds `tw`. -/
def OneCellWritten (c : Nat) (tw : TileWord) (s t : State) : Prop :=
  cellAt t s.curSel.other c = tw ∧ (∀ d, d ≠ c → cellAt t s.curSel.other d = cellAt s s.curSel.other d) ∧
    ∀ d, cellAt t s.curSel d = cellAt s s.curSel d

end Sys2Proof.Machine
end

