-- ==== Sys2Proof/Certificates/Slice0/Obligations.lean ====
section
/-! DEFINITION. The statements for the provers, from the numbered rules of spec/. -/

open Sys2Proof Sys2Proof.Machine

/-! ## Encoding -/

/-- 40_codec R92 (the spec's own derivation), 30_encoding R62: no operand bit is lost on the way through the encoding,
and decoding reads exactly the instruction's bytes. -/
def Obligations.DecodeOfEncode : Prop :=
  ∀ p : Profile, p.isReference → ∀ i : Instr, WellFormed p i = true → ∀ rest : List Byte,
    decode p (encode p i ++ rest) = .ok (i, rest)

/-- 40_codec R92: `encode(decode(W)) = W` over all windows. -/
def Obligations.EncodeOfDecode : Prop :=
  ∀ p : Profile, p.isReference → ∀ (W rest : List Byte) (i : Instr), decode p W = .ok (i, rest) → encode p i ++ rest = W

/-- 30_encoding R65, R68: what the decoder reads fits the ranges of the assembler's table. -/
def Obligations.DecodedIsWellFormed : Prop :=
  ∀ p : Profile, p.isReference → ∀ (W rest : List Byte) (i : Instr), decode p W = .ok (i, rest) → WellFormed p i = true

/-- 40_codec R82: the class of the row a byte matches, under any map whose rows cut the bytes up; and the class
selection of the reference map. -/
def Obligations.ClassSelection : Prop :=
  (∀ (p : Profile) (r : OpRow) (b0 : Byte), rowsPartition p = true → r ∈ p.opmap → b0 &&& r.mask = r.pattern →
    classOf p b0 = r.cls) ∧
  (∀ (p : Profile) (b0 : Byte), p.isReference →
    classOf p b0 =
      if b0.extractLsb' 6 2 = 0b00#2 then .placeA
      else if b0.extractLsb' 6 2 = 0b01#2 then .placeB
      else if b0.extractLsb' 6 2 = 0b10#2 then .put
      else if b0.extractLsb' 3 5 = 0b11111#5 then .endFrame
      else if b0 = 0xF0 then .bank
      else if b0 = 0xF1 then .borderA
      else if b0 = 0xF2 then .borderB
      else if b0 = 0xF3 then .endStream
      else if b0.toNat < 0xE0 then .reservedC0
      else if b0.toNat < 0xF0 then .reservedE0
      else .reservedF4)

/-- 30_encoding R60, R61: an instruction is an opcode byte and its operand bytes, and the length depends on `b0` alone. -/
def Obligations.LengthByOpcode : Prop :=
  ∀ (p : Profile) (b0 : Byte) (tail rest : List Byte) (i : Instr), p.isReference → decode p (b0 :: tail) = .ok (i, rest) →
    ∃ operands, tail = operands ++ rest ∧
      operands.length = if b0.toNat < 0x40 then 4 else if b0.toNat < 0x80 then 2 else if b0.toNat < 0xC0 then 1 else 0

/-- 40_codec R83, R84, R86: the fields of classes A and B, and the tile block's byte offset inside one bank. -/
def Obligations.PlacementFields : Prop :=
  ∀ p : Profile, p.isReference →
    (∀ b0 b1 b2 b3 b4 : Byte, b0.toNat < 0x40 →
      let u := b3.toNat * 256 + b4.toNat
      let aoff := u % 2 ^ p.assetOffsetBits
      decode p [b0, b1, b2, b3, b4] =
        .ok (.pla (b0.toNat % 64 * 16 + b1.toNat / 16) (b1.toNat % 16 * 256 + b2.toNat) (u / 2 ^ p.assetOffsetBits) aoff, []) ∧
      assetByteOffset p aoff = aoff * p.tileBytes ∧ assetByteOffset p aoff + p.tileBytes ≤ p.bankSize) ∧
    (∀ b0 b1 b2 : Byte, 0x40 ≤ b0.toNat → b0.toNat < 0x80 →
      decode p [b0, b1, b2] = .ok (.plb (b0.toNat % 64 * 16 + b1.toNat / 16) (b1.toNat % 16 * 256 + b2.toNat), [])) ∧
    (∀ b1 b2 : Byte, (tileWord (b1.toNat % 16 * 256 + b2.toNat)).extractLsb' 12 4 = 0)

/-- 40_codec R85: PUT's tile field, 14 bits, so bits 15:14 of the tile word are 0. -/
def Obligations.PutField : Prop :=
  ∀ (p : Profile) (b0 b1 : Byte), p.isReference → 0x80 ≤ b0.toNat → b0.toNat < 0xC0 →
    decode p [b0, b1] = .ok (.put (b0.toNat % 64 * 256 + b1.toNat), []) ∧
      (tileWord (b0.toNat % 64 * 256 + b1.toNat)).extractLsb' 14 2 = 0

/-- 40_codec R87: EOF's budget is `b0 & 0x7`, in every profile; under the reference map `b0` is in 0xF8-0xFF. -/
def Obligations.EofBudgetField : Prop :=
  (∀ (p : Profile) (b0 : Byte), classOf p b0 = .endFrame →
    ∃ k : Budget, decode p [b0] = .ok (.eof k, []) ∧ k.toNat = (b0 &&& 0x7).toNat ∧ k.toNat ≤ 7) ∧
  (∀ (p : Profile) (b0 : Byte), p.isReference → (classOf p b0 = .endFrame ↔ 0xF8 ≤ b0.toNat))

/-- 40_codec R91: P2 and P4 differ in `OB` and `TILE_BYTES` (and the two layouts that `OB` fixes) only; classes B, M,
the control codes and the reserved bytes decode identically under both; class A's position and tile do too, and the asset
bank and offset split the same 16-bit word. -/
def Obligations.ProfilesDifferInAssetSplit : Prop :=
  profileP4 = { profileP2 with
    assetOffsetBits := 11, tileBytes := 32,
    layout := { profileP2.layout with aBank := profileP4.layout.aBank, aOff := profileP4.layout.aOff } } ∧
  profileP2.assetOffsetBits = 12 ∧ profileP2.tileBytes = 16 ∧
  ∀ (W rest : List Byte) (i : Instr), decode profileP2 W = .ok (i, rest) →
    match i with
    | .pla pos tile abank aoff =>
      ∃ abank' aoff', decode profileP4 W = .ok (.pla pos tile abank' aoff', rest) ∧
        abank' * 2 ^ 11 + aoff' = abank * 2 ^ 12 + aoff ∧ aoff' < 2 ^ 11
    | _ => decode profileP4 W = .ok (i, rest)

/-- 95_test_vectors section 2.1: words written out from the encodings decode to the instructions they stand for. -/
def Obligations.GoldenWords : Prop :=
  decode profileP2 [0x01, 0x23, 0x45, 0x67, 0x89] = .ok (.pla 18 0x345 6 0x789, []) ∧
  decode profileP4 [0x01, 0x23, 0x45, 0x67, 0x89] = .ok (.pla 18 0x345 12 0x789, []) ∧
  decode profileP2 [0x41, 0x23, 0x45] = .ok (.plb 18 0x345, []) ∧
  decode profileP2 [0xA2, 0x34] = .ok (.put 0x2234, []) ∧
  decode profileP2 [0xF0] = .ok (.bank, []) ∧ decode profileP2 [0xF3] = .ok (.eos, []) ∧
  decode profileP2 [0xFB] = .ok (.eof 3, []) ∧ decode profileP2 [0xC0] = .ok (.reservedC0 0xC0, [])

/-! ## The step and the fetch -/

/-- 42_stream_control R120, R122: when the bytes at the command position decode to `i`, the Engine's Decoding step is
`exec i`; around it the step only takes the turn off the agenda (the model's own field, log 4). The step asks that
`DISPLAY_ONLY` is clear (log 10). -/
def Obligations.StepRunsDecoded : Prop :=
  ∀ (s : State) (W : List Byte) (i : Instr), EngineTurn s → s.phase = .decoding → s.displayOnly = false →
    (∀ j < W.length, cmdRead s s.cmdBank (s.cmdOff + j) = W[j]?) → decode s.launch.prof W = .ok (i, []) →
    step s = exec i (popTurn s)

/-- 42_stream_control R121: a byte at or past the bank's end, or one the ROM lacks, faults; the opcode byte is recorded
if it was read (60_exceptions R160). The first unreadable byte decides (R124). -/
def Obligations.FetchFaults : Prop :=
  ∀ s : State, EngineTurn s → s.phase = .decoding → s.displayOnly = false →
    (s.launch.prof.bankSize ≤ s.cmdOff → step s = .next (raiseFault .cmdPastBank none (popTurn s))) ∧
    (s.cmdOff < s.launch.prof.bankSize → cmdRead s s.cmdBank s.cmdOff = none →
      step s = .next (raiseFault .cmdMissing none (popTurn s))) ∧
    (∀ (b0 : Byte) (n : Nat), cmdRead s s.cmdBank s.cmdOff = some b0 → 1 ≤ n →
      n ≤ operandCount (classOf s.launch.prof b0) → (∀ j < n, (cmdRead s s.cmdBank (s.cmdOff + j)).isSome = true) →
      (s.launch.prof.bankSize ≤ s.cmdOff + n → step s = .next (raiseFault .cmdPastBank (some b0) (popTurn s))) ∧
      (s.cmdOff + n < s.launch.prof.bankSize → cmdRead s s.cmdBank (s.cmdOff + n) = none →
        step s = .next (raiseFault .cmdMissing (some b0) (popTurn s))))

/-- 60_exceptions R160: a fault changes `FAULT` and `PHASE` and nothing else, and records the position and the opcode
byte if it was read; in Faulted the Engine's turn changes nothing, every other turn but reset changes `TICK` and
`TICK_PENDING` alone, `FAULT` stays until reset, the run is not final, and ticks are still counted. Log 5: an agent with no step answers a next
state; log 7: the op of the record. -/
def Obligations.FaultsArePreciseAndSticky : Prop :=
  (∀ s t : State, step s = .next t → s.phase ≠ .faulted → t.phase = .faulted →
    ∃ (code : FaultCode) (op : Option Byte),
      t = { popTurn s with phase := .faulted, fault := some ⟨code, s.cmdBank, s.cmdOff, op⟩ } ∧
        op = if code = .unwritten then none else cmdRead s s.cmdBank s.cmdOff) ∧
  (∀ s t : State, step s = .next t → s.phase = .faulted → NotReset s →
    t = { popTurn s with tick := t.tick, tickPending := t.tickPending } ∧ ¬ Final t) ∧
  (∀ (s : State) (rest : List Turn), s.phase = .faulted → s.agenda = .engine :: rest → step s = .next (popTurn s)) ∧
  (∀ (s : State) (rest : List Turn), s.phase = .faulted → s.agenda = .tick :: rest → s.tickMasked = false →
    ∃ t, step s = .next t ∧ t.phase = .faulted ∧ t.fault = s.fault ∧ t.tick = s.tick + 1)

/-- 60_exceptions R169 with 43_flip_governor R142: apart from a host request outside its contract (93 S9), every turn of
every agent answers a next state: nothing stops the machine from counting ticks. That a held or idle agent's turn answers one
is the model's reading (log 5), and so is that a fault of the spec is a state and no stop of the machine (log 6). -/
def Obligations.EveryTurnAnswers : Prop :=
  ∀ s : State, NotHostWait s → ∃ t, step s = .next t

/-! ## Placement -/

/-- 41_placement R101: the cursor step with the row-boundary skip, and what it is under the reference constants. -/
def Obligations.AdvanceOneStep : Prop :=
  (∀ (p : Profile) (c : Nat), advance1 p c = if c % p.fbPitch = p.rowLastCol then c + p.rowSkip else c + 1) ∧
  ∀ (p : Profile) (c : Nat), p.isReference →
    (c % 32 = 23 → advance1 p c = c + 9 ∧ advance1 p c = (c / 32 + 1) * 32) ∧
    (c % 32 ≠ 23 → advance1 p c = c + 1) ∧ (c % 32 = 31 → advance1 p c = (c / 32 + 1) * 32)

/-- 41_placement R102 (the spec's derivation): under the pitch equation of 00_scope R3 a step from inside the grid
never passes `FB_CELLS`. -/
def Obligations.CursorStaysInGrid : Prop :=
  ∀ (p : Profile) (c : Nat), p.fbPitch = p.rowLastCol + p.rowSkip → c < p.fbCells → advanceBy p c 1 ≤ p.fbCells

/-- 41_placement R103, R100, R102: PLB inside the grid writes its one cell of the next buffer, moves the cursor on from
that cell, and changes nothing else; past the grid it faults POS_RANGE with no other effect (log 7 says what the record's op is
where no fetch was made). -/
def Obligations.PlbCompletes : Prop :=
  ∀ (s : State) (pos tile : Nat),
    (pos < s.launch.prof.fbCells →
      ∃ t, exec (.plb pos tile) s = .next t ∧ OneCellWritten pos (tileWord tile) s t ∧ SameTilesAndRoms s t ∧
        t = { s with
          cmdOff := s.cmdOff + 3, cursor := advanceBy s.launch.prof pos s.launch.prof.strideB, mem := t.mem }) ∧
    (s.launch.prof.fbCells ≤ pos → exec (.plb pos tile) s =
      .next { s with fault := some ⟨.posRange, s.cmdBank, s.cmdOff, opcodeByte s⟩, phase := .faulted })

/-- 41_placement R104, R100, R102: PUT writes the cursor's cell; with the cursor past the grid it faults POS_RANGE with
no other effect (log 7 says what the record's op is where no fetch was made). -/
def Obligations.PutCompletes : Prop :=
  ∀ (s : State) (tile : Nat),
    (s.cursor < s.launch.prof.fbCells →
      ∃ t, exec (.put tile) s = .next t ∧ OneCellWritten s.cursor (tileWord tile) s t ∧ SameTilesAndRoms s t ∧
        t = { s with
          cmdOff := s.cmdOff + 2, cursor := advanceBy s.launch.prof s.cursor s.launch.prof.strideM, mem := t.mem }) ∧
    (s.launch.prof.fbCells ≤ s.cursor → exec (.put tile) s =
      .next { s with fault := some ⟨.posRange, s.cmdBank, s.cmdOff, opcodeByte s⟩, phase := .faulted })

/-- 41_placement R106, R107, R109: a PLA whose checks pass copies its block byte by byte into the slot its tile word
names, leaves every other tile byte alone, sets `ASSET_BANK`, writes its one cell and moves the cursor; `CMD_BANK` is
as before. -/
def Obligations.PlaCompletes : Prop :=
  ∀ (s : State) (pos tile abank aoff : Nat),
    let p := s.launch.prof
    let bank := s.launch.assetBankBase + abank
    let slot := tileIndex p (tileWord tile)
    bank ≤ 255 → slot < p.tileSlots → (∀ j < p.tileBytes, (assetRead s bank (aoff * p.tileBytes + j)).isSome = true) →
    pos < p.fbCells →
    ∃ t, exec (.pla pos tile abank aoff) s = .next t ∧ OneCellWritten pos (tileWord tile) s t ∧
      (∀ j < p.tileBytes, tileByte t slot j = assetRead s bank (aoff * p.tileBytes + j)) ∧
      (∀ a, a < slot * p.tileBytes ∨ slot * p.tileBytes + p.tileBytes ≤ a →
        Store.read t.mem.tile a = Store.read s.mem.tile a) ∧
      t.mem.cmdRom = s.mem.cmdRom ∧ t.mem.assetRom = s.mem.assetRom ∧
      t = { s with
        cmdOff := s.cmdOff + 5, cursor := advanceBy p pos p.strideA, assetBank := some (BitVec.ofNat 8 bank), mem := t.mem } ∧
      (BitVec.ofNat 8 bank).toNat = bank

/-- 41_placement R110: PLA checks the asset bank, the slot, the asset block and the position, in this order, and the
first that fails is raised with no other effect (log 7 says what the record's op is where no fetch was made). -/
def Obligations.PlaChecksInOrder : Prop :=
  ∀ (s : State) (pos tile abank aoff : Nat),
    let p := s.launch.prof
    let bank := s.launch.assetBankBase + abank
    let slot := tileIndex p (tileWord tile)
    let present := ∀ j < p.tileBytes, (assetRead s bank (aoff * p.tileBytes + j)).isSome = true
    let faulted := fun code : FaultCode =>
      ({ s with fault := some ⟨code, s.cmdBank, s.cmdOff, opcodeByte s⟩, phase := .faulted } : State)
    (255 < bank → exec (.pla pos tile abank aoff) s = .next (faulted .assetBankRange)) ∧
    (bank ≤ 255 → p.tileSlots ≤ slot → exec (.pla pos tile abank aoff) s = .next (faulted .slotRange)) ∧
    (bank ≤ 255 → slot < p.tileSlots → ¬ present → exec (.pla pos tile abank aoff) s = .next (faulted .assetMissing)) ∧
    (bank ≤ 255 → slot < p.tileSlots → present → p.fbCells ≤ pos →
      exec (.pla pos tile abank aoff) s = .next (faulted .posRange))

/-- 41_placement R108: after every PLA `CMD_BANK` and the command bytes are as before it, and `CMD_OFF` has grown by 5,
or the fetch faulted and neither register changed. -/
def Obligations.PlaKeepsCommandStream : Prop :=
  ∀ (s t : State) (pos tile abank aoff : Nat), exec (.pla pos tile abank aoff) s = .next t →
    t.cmdBank = s.cmdBank ∧ (∀ bank off, cmdRead t bank off = cmdRead s bank off) ∧
      ((t.cmdOff = s.cmdOff + 5 ∧ t.fault = s.fault ∧ t.phase = s.phase) ∨
        (t.cmdOff = s.cmdOff ∧ t.phase = .faulted ∧ t.assetBank = s.assetBank))

/-- 41_placement R112, R100: an instruction changes at most the one cell of the next buffer that it names (PLA, PLB) or
that the cursor names (PUT). -/
def Obligations.OnlyPlacedCellChanges : Prop :=
  ∀ (i : Instr) (s t : State) (c : Nat), exec i s = .next t →
    cellAt t s.curSel.other c ≠ cellAt s s.curSel.other c →
    match i with
    | .pla pos _ _ _ => c = pos
    | .plb pos _ => c = pos
    | .put _ => c = s.cursor
    | _ => False

/-- 10_state R25: tile memory is written only through the tile-block copy of PLA, on the Engine's own turn: no tick, delivery,
host request or reset writes it. -/
def Obligations.OnlyPlaWritesTiles : Prop :=
  ∀ s t : State, step s = .next t → t.mem.tile ≠ s.mem.tile →
    EngineTurn s ∧ s.phase = .decoding ∧ ∃ b0, cmdRead s s.cmdBank s.cmdOff = some b0 ∧ classOf s.launch.prof b0 = .placeA

/-- 41_placement R111 (the spec's derivation), 95 W3: N PUTs from cursor 0, up to the buffer's end, leave the cursor at
`N + 8 * (N / 24)`. -/
def Obligations.CursorLaw : Prop :=
  ∀ (s : State) (tiles : List Nat), s.launch.prof.isReference → s.cursor = 0 → tiles.length ≤ 768 →
    ∃ t, execAll (tiles.map Instr.put) s = .next t ∧ t.cursor = tiles.length + 8 * (tiles.length / 24) ∧
      t.cmdOff = s.cmdOff + 2 * tiles.length ∧ t.phase = s.phase

/-! ## Stream control -/

/-- 42_stream_control R127, R128: BANK below the top bank moves to the start of the next one; in the top bank it faults
and does not wrap (log 7 says what the record's op is where no fetch was made). -/
def Obligations.BankCompletes : Prop :=
  ∀ s : State,
    (s.cmdBank.toNat < 255 →
      ∃ t, exec .bank s = .next t ∧ t = { s with cmdBank := t.cmdBank, cmdOff := 0 } ∧
        t.cmdBank.toNat = s.cmdBank.toNat + 1) ∧
    (s.cmdBank.toNat = 255 → exec .bank s =
      .next { s with fault := some ⟨.cmdBankRange, s.cmdBank, s.cmdOff, opcodeByte s⟩, phase := .faulted })

/-- 42_stream_control R129, R130: BORDA and BORDB set the pending border, the last one wins, and the display does not
change. -/
def Obligations.BorderCodesComplete : Prop :=
  ∀ s : State,
    exec .borda s = .next { s with cmdOff := s.cmdOff + 1, pendingBorder := some s.launch.borderA } ∧
    exec .bordb s = .next { s with cmdOff := s.cmdOff + 1, pendingBorder := some s.launch.borderB }

/-- 42_stream_control R131: EOF. -/
def Obligations.EofCompletes : Prop :=
  ∀ (s : State) (k : Budget),
    exec (.eof k) s =
      .next { s with cmdOff := s.cmdOff + 1, budget := some k, signal := .moreFrames, phase := .waiting }

/-- 42_stream_control R132: EOS: no flip, no buffer write, `TICK` and the pending border unaffected. -/
def Obligations.EosCompletes : Prop :=
  ∀ s : State,
    exec .eos s =
      .next { s with cmdOff := s.cmdOff + 1, displayOnly := true, signal := .streamDone, phase := .done }

/-- 42_stream_control R133, 30_encoding R66: a reserved opcode faults RESERVED_OPCODE, whatever follows it, and the
command offset is not advanced (log 7 says what the record's op is where no fetch was made). -/
def Obligations.ReservedFaults : Prop :=
  (∀ (s : State) (b0 : Byte),
    let t : State := { s with fault := some ⟨.reservedOpcode, s.cmdBank, s.cmdOff, opcodeByte s⟩, phase := .faulted }
    exec (.reservedC0 b0) s = .next t ∧ exec (.reservedE0 b0) s = .next t ∧ exec (.reservedF4 b0) s = .next t) ∧
  (∀ (s : State) (b0 : Byte), s.launch.prof.isReference → EngineTurn s → s.phase = .decoding → s.displayOnly = false →
    cmdRead s s.cmdBank s.cmdOff = some b0 → (0xC0 ≤ b0.toNat ∧ b0.toNat ≤ 0xEF ∨ 0xF4 ≤ b0.toNat ∧ b0.toNat ≤ 0xF7) →
    step s = .next { popTurn s with
      fault := some ⟨.reservedOpcode, s.cmdBank, s.cmdOff, some b0⟩, phase := .faulted })

/-- 10_state R14, 42_stream_control R126 (the spec's derivation): every instruction moves the position forward by its own
length, or to the start of the next bank, or faults and leaves it. -/
def Obligations.PositionMovesForward : Prop :=
  ∀ (i : Instr) (s t : State), exec i s = .next t →
    (t.phase = .faulted ∧ t.cmdBank = s.cmdBank ∧ t.cmdOff = s.cmdOff) ∨
    (i = .bank ∧ t.cmdBank.toNat = s.cmdBank.toNat + 1 ∧ t.cmdOff = 0) ∨
    (i ≠ .bank ∧ t.cmdBank = s.cmdBank ∧ t.cmdOff = s.cmdOff + (encode s.launch.prof i).length)

/-- 10_state R12: only BANK changes `CMD_BANK` (reset apart, 70_reset R183). -/
def Obligations.OnlyBankSwitchesBank : Prop :=
  ∀ s t : State, NotReset s → step s = .next t → t.cmdBank ≠ s.cmdBank →
    s.phase = .decoding ∧ t.cmdOff = 0 ∧
      ∃ b0, cmdRead s s.cmdBank s.cmdOff = some b0 ∧ classOf s.launch.prof b0 = .bank

/-! ## The governor and the flip -/

/-- 43_flip_governor R143, R142: the Waiting step tests and masks at once, holds while the budget is not reached, and
faults UNWRITTEN where no budget was written. -/
def Obligations.WaitingStep : Prop :=
  ∀ s : State, s.phase = .waiting →
    (s.budget = none → EngineTurn s → step s = .next (raiseFault .unwritten none (popTurn s))) ∧
    (∀ k, s.budget = some k → k.toNat ≤ s.tick.toNat → EngineTurn s →
      step s = .next { popTurn s with tickMasked := true, phase := .consuming }) ∧
    (∀ k rest, s.budget = some k → s.tick.toNat < k.toNat → s.agenda = .engine :: rest → step s = .next (popTurn s))

/-- 43_flip_governor R144: the Consuming step subtracts the budget exactly and unmasks. -/
def Obligations.ConsumingStep : Prop :=
  ∀ (s : State) (k : Budget), s.phase = .consuming → EngineTurn s → s.budget = some k → k.toNat ≤ s.tick.toNat →
    ∃ t, step s = .next t ∧ t.tick.toNat = s.tick.toNat - k.toNat ∧
      t = { popTurn s with tick := t.tick, tickMasked := false, phase := .flipping }

/-- 43_flip_governor R145 to R147: flip, then clone, as one step: both buffers read as the one just built, the pending
border is applied and cleared, the cursor starts again, and nothing else changes. -/
def Obligations.FlippingStep : Prop :=
  ∀ s : State, s.phase = .flipping → s.displayOnly = false → EngineTurn s →
    ∃ t, step s = .next t ∧ (∀ i c, cellAt t i c = cellAt s s.curSel.other c) ∧ SameTilesAndRoms s t ∧
      t = { popTurn s with
        phase := .decoding, curSel := s.curSel.other, dispActive := s.curSel.other,
        dispBorder := (match s.pendingBorder with | some v => v | none => s.dispBorder),
        pendingBorder := none, cursor := s.launch.prof.cursorStart, signal := .none, mem := t.mem }

/-- 43_flip_governor R152: a host wait request is placed in Done only, with `k` in 0..7 and none outstanding, any other
is refused; the Engine accepts it into `BUDGET`. -/
def Obligations.HostRequestInDone : Prop :=
  (∀ (s : State) (k : Nat) (rest : List Turn), s.agenda = .hostWait k :: rest →
    (s.phase = .done ∧ s.hostReq = none ∧ k ≤ 7 → step s = .next { popTurn s with hostReq := some (BitVec.ofNat 4 k) }) ∧
    (¬ (s.phase = .done ∧ s.hostReq = none ∧ k ≤ 7) → step s = .refused .hostWaitRefused)) ∧
  (∀ (s : State) (k : BitVec 4), s.phase = .done → EngineTurn s → s.hostReq = some k → k.toNat ≤ 7 →
    ∃ b : Budget, b.toNat = k.toNat ∧
      step s = .next { popTurn s with budget := some b, hostReq := none, phase := .hostWaiting })

/-- 43_flip_governor R153: HostWaiting and HostConsuming behave as Waiting and Consuming, and end in Done with no flip. -/
def Obligations.HostWaitSteps : Prop :=
  (∀ (s : State) (k : Budget), s.phase = .hostWaiting → s.budget = some k →
    (k.toNat ≤ s.tick.toNat → EngineTurn s → step s = .next { popTurn s with tickMasked := true, phase := .hostConsuming }) ∧
    (∀ rest, s.tick.toNat < k.toNat → s.agenda = .engine :: rest → step s = .next (popTurn s))) ∧
  (∀ (s : State) (k : Budget), s.phase = .hostConsuming → EngineTurn s → s.budget = some k → k.toNat ≤ s.tick.toNat →
    ∃ t, step s = .next t ∧ t.tick.toNat = s.tick.toNat - k.toNat ∧
      t = { popTurn s with tick := t.tick, tickMasked := false, phase := .done })

/-- 10_state R34, 60_exceptions table X-1: a budget that nothing has written is never read as a number, in any phase that
reads it. -/
def Obligations.UnwrittenBudgetFaults : Prop :=
  ∀ s : State, EngineTurn s → s.budget = none →
    s.phase = .waiting ∨ s.phase = .consuming ∨ s.phase = .hostWaiting ∨ s.phase = .hostConsuming →
    step s = .next { popTurn s with fault := some ⟨.unwritten, s.cmdBank, s.cmdOff, none⟩, phase := .faulted }

/-- 43_flip_governor R148 (the spec's derivation), for `T0 <= k`: with the Engine given a turn before and after every tick,
it holds through exactly `k - T0` ticks, is still waiting before the last of them, and then masks, consumes and is left with
no tick. The held turns rest on log 5, the agenda on log 4. -/
def Obligations.BudgetLaw : Prop :=
  ∀ (s : State) (k : Budget) (n : Nat) (rest : List Turn), s.phase = .waiting → s.budget = some k →
    s.tickMasked = false → s.tick.toNat + n = k.toNat →
    s.agenda = (List.replicate n [Turn.engine, Turn.tick]).flatten ++ .engine :: .engine :: rest →
    (∀ m ≤ n, ∃ u, run (2 * m) s = .next u ∧ u.phase = .waiting ∧ u.tick.toNat = s.tick.toNat + m) ∧
    ∃ t, run (2 * n + 2) s = .next t ∧
      t = { s with tick := 0, phase := .flipping, agenda := rest }

/-- 43_flip_governor R150 (the spec's derivation), 95 W4: a frame whose first instruction is EOF, begun with equal
buffers as beginFrame and reset leave them, displays the same picture after its flip, and the same border unless one was
pending; whatever turns the agenda holds in between (the Host's reset apart), through holds and ticks. In the first clause
the step from `u` is the frame's flip: none of the `n` steps before it is one. The second clause says that the frame
completes: with the budget covered, in four steps. -/
def Obligations.EmptyFrameKeepsPicture : Prop :=
  ∀ (s : State) (b0 : Byte), s.phase = .decoding → s.displayOnly = false → Turn.hostReset ∉ s.agenda →
    s.dispActive = s.curSel → (∀ c, cellAt s .fb0 c = cellAt s .fb1 c) → cmdRead s s.cmdBank s.cmdOff = some b0 →
    classOf s.launch.prof b0 = .endFrame →
    (∀ (n : Nat) (u : State), run n s = .next u → u.phase = .flipping → EngineTurn u →
      (∀ m < n, ∀ v, run m s = .next v → v.phase = .flipping → ¬ EngineTurn v) →
      ∃ t, step u = .next t ∧ t.phase = .decoding ∧ t.cmdOff = s.cmdOff + 1 ∧
        (∀ c, displayedCell t c = displayedCell s c) ∧ (s.pendingBorder = none → displayedBorder t = displayedBorder s)) ∧
    (s.agenda = [] → (budgetOf b0).toNat ≤ s.tick.toNat →
      ∃ t, run 4 s = .next t ∧ t.phase = .decoding ∧ t.cmdOff = s.cmdOff + 1 ∧
        (∀ c, displayedCell t c = displayedCell s c) ∧ (s.pendingBorder = none → displayedBorder t = displayedBorder s))

/-- 43_flip_governor R140: the transitions of the Engine's turn, in the states where `DISPLAY_ONLY` is as the phase says
(a clause of `Inv`, which StepKeepsInvariant says every step keeps). -/
def Obligations.PhaseTransitions : Prop :=
  ∀ s t : State, s.displayOnly = s.phase.afterStream → EngineTurn s → step s = .next t →
    t.phase ∈ (match s.phase with
      | .decoding => [Phase.decoding, .waiting, .done, .faulted]
      | .waiting => [.waiting, .consuming, .faulted]
      | .consuming => [.flipping, .faulted]
      | .flipping => [.decoding]
      | .done => [.done, .hostWaiting]
      | .hostWaiting => [.hostWaiting, .hostConsuming, .faulted]
      | .hostConsuming => [.done, .faulted]
      | .faulted => [.faulted])

/-! ## The TickSource -/

/-- 60_exceptions R163 to R165, R169: a tick is counted, or latched while masked, in every phase; a latched tick is
delivered once the mask is clear; nothing else changes. -/
def Obligations.TickTurns : Prop :=
  (∀ (s : State) (rest : List Turn), s.agenda = .tick :: rest →
    (s.tickMasked = false →
      ∃ t, step s = .next t ∧ t = { popTurn s with tick := t.tick } ∧ t.tick.toNat = (s.tick.toNat + 1) % 2 ^ 16) ∧
    (s.tickMasked = true → step s = .next { popTurn s with tickPending := true })) ∧
  (∀ (s : State) (rest : List Turn), s.agenda = .deliver :: rest →
    (s.tickPending = true → s.tickMasked = false →
      ∃ t, step s = .next t ∧ t = { popTurn s with tick := t.tick, tickPending := false } ∧
        t.tick.toNat = (s.tick.toNat + 1) % 2 ^ 16) ∧
    (s.tickPending = false ∨ s.tickMasked = true → step s = .next (popTurn s)))

/-! ## Reset and launch -/

/-- 70_reset R180, R183: the Host's reset in any phase puts every element at the table's value, the OPEN ones at the
launch parameters', and leaves tile memory alone. -/
def Obligations.ResetValues : Prop :=
  ∀ (s : State) (rest : List Turn), s.agenda = .hostReset :: rest →
    ∃ t, step s = .next t ∧ t.phase = .decoding ∧ t.cmdBank = s.launch.cmdBankStart ∧ t.cmdOff = s.launch.cmdOffStart ∧
      t.assetBank = none ∧ t.cursor = s.launch.prof.cursorStart ∧ t.budget = none ∧ t.tick = 0 ∧ t.tickMasked = false ∧
      t.tickPending = false ∧ t.curSel = .fb0 ∧ t.pendingBorder = none ∧ t.dispActive = .fb0 ∧
      t.dispBorder = s.launch.borderReset ∧ t.displayOnly = false ∧ t.signal = .none ∧ t.fault = none ∧ t.hostReq = none ∧
      (∀ i c, cellAt t i c = 0) ∧ SameTilesAndRoms s t ∧ t.launch = s.launch

/-- 00_scope R3: a profile that breaks an equation is refused when it is configured; both reference profiles meet them
and are launched, with any memory contents that lie in their address spaces and are in canonical form. -/
def Obligations.LaunchChecksProfile : Prop :=
  (∀ (l : Launch) (cmdRom assetRom tile : List Host.Cell),
    ¬ (l.prof.fbCells = l.prof.fbPitch * l.prof.fbRows ∧ l.prof.fbPitch = l.prof.rowLastCol + l.prof.rowSkip ∧
        l.prof.tileSlots = 2 ^ l.prof.tileIndexBits ∧ 2 ^ l.prof.assetOffsetBits * l.prof.tileBytes = l.prof.bankSize) →
    boot l cmdRom assetRom tile = .refused .launchOutsideSpec) ∧
  (∀ (l : Launch) (cmdRom assetRom tile : List Host.Cell), l.prof.isReference → l.cmdOffStart ≤ 65536 →
    Store.sorted cmdRom = true → Store.sorted assetRom = true → Store.sorted tile = true →
    Store.below (256 * 65536) cmdRom = true → Store.below (256 * 65536) assetRom = true →
    Store.below (512 * l.prof.tileBytes) tile = true →
    boot l cmdRom assetRom tile = .next (State.resetWith l cmdRom assetRom tile))

/-- 30_encoding R64(b) to (d): a profile is refused when it is configured if an EOF budget has no code or two, if PUT's
tile field is the same for all PUT opcodes or for all `b1`, or if a fixed code is no code or several (log 15). -/
def Obligations.LaunchChecksEncoding : Prop :=
  ∀ (l : Launch) (cmdRom assetRom tile : List Host.Cell),
    let p := l.prof
    ((∃ k < 8, ¬ ∃! b0 : Byte, classOf p b0 = .endFrame ∧ b0.toNat % 8 = k) ∨
      (∀ b0 c0 : Byte, classOf p b0 = .put → classOf p c0 = .put → ∀ b1, putTile p b0 b1 = putTile p c0 b1) ∨
      (∀ b0 : Byte, classOf p b0 = .put → ∀ b1 c1, putTile p b0 b1 = putTile p b0 c1) ∨
      (∃ c ∈ [OpClass.bank, .borderA, .borderB, .endStream], ¬ ∃! b0 : Byte, classOf p b0 = c)) →
    boot l cmdRom assetRom tile = .refused .launchOutsideSpec

/-- 20_memory R40 to R42: a read outside the bounds of its address space holds nothing, whatever is listed; a
read inside them is what its linear address lists (log 12); and a launch with contents outside a space is refused (log 15). The frame buffers' bound is the Display's view; a write past it is PlbCompletes' and PutCompletes' fault. -/
def Obligations.AddressSpaceBounds : Prop :=
  (∀ (s : State) (bank : Bank) (off : Nat), s.launch.prof.bankSize ≤ off → cmdRead s bank off = none) ∧
  (∀ (s : State) (bank off : Nat), 256 ≤ bank ∨ s.launch.prof.bankSize ≤ off → assetRead s bank off = none) ∧
  (∀ (s : State) (slot j : Nat), s.launch.prof.tileSlots ≤ slot ∨ s.launch.prof.tileBytes ≤ j → tileByte s slot j = none) ∧
  (∀ (s : State) (c j : Nat), s.launch.prof.fbCells ≤ c → displayedCell s c = none ∧ displayedTileByte s c j = none) ∧
  (∀ (s : State) (bank : Bank) (off : Nat), off < s.launch.prof.bankSize →
    cmdRead s bank off = Store.read s.mem.cmdRom (linearOffset s.launch.prof bank.toNat off) ∧
      assetRead s bank.toNat off = Store.read s.mem.assetRom (linearOffset s.launch.prof bank.toNat off)) ∧
  (∀ (s : State) (slot j : Nat), slot < s.launch.prof.tileSlots → j < s.launch.prof.tileBytes →
    tileByte s slot j = Store.read s.mem.tile (slot * s.launch.prof.tileBytes + j)) ∧
  (∀ (l : Launch) (cmdRom assetRom tile : List Host.Cell) (a : Nat) (v : Byte),
    ((a, v) ∈ cmdRom ∨ (a, v) ∈ assetRom) ∧ 256 * l.prof.bankSize ≤ a ∨
      (a, v) ∈ tile ∧ l.prof.tileSlots * l.prof.tileBytes ≤ a →
    boot l cmdRom assetRom tile = .refused .launchOutsideSpec)

/-! ## Invariants and whole-machine rules -/

/-- 10_state R30, 43_flip_governor R149 (the spec's derivations): every step of every agent keeps the invariant. -/
def Obligations.StepKeepsInvariant : Prop :=
  ∀ s t : State, Inv s → step s = .next t → Inv t

/-- 10_state R30: the invariant holds right after reset, for every launch of a reference profile. -/
def Obligations.ResetMeetsInvariant : Prop :=
  Inv State.reset ∧
  ∀ (l : Launch) (cmdRom assetRom tile : List Host.Cell), l.prof.isReference → l.cmdOffStart ≤ l.prof.bankSize →
    Store.sorted cmdRom = true → Store.sorted assetRom = true → Store.sorted tile = true →
    Store.below (256 * l.prof.bankSize) cmdRom = true → Store.below (256 * l.prof.bankSize) assetRom = true →
    Store.below (l.prof.tileSlots * l.prof.tileBytes) tile = true → Inv (State.resetWith l cmdRom assetRom tile)

/-- Every step keeps the canonical form of every store, under every profile. The form is the model's own choice (log 12), and
no rule of the spec states it; the cited rules give the spaces and the values it stands for. -/
def Obligations.StepKeepsMemoryForm : Prop :=
  ∀ s t : State, s.mem.wf = true → step s = .next t → t.mem.wf = true

/-- 20_memory R55, 10_state R10: no step writes the command ROM, the asset ROM or the launch parameters. -/
def Obligations.RomsNeverWritten : Prop :=
  ∀ s t : State, step s = .next t →
    t.mem.cmdRom = s.mem.cmdRom ∧ t.mem.assetRom = s.mem.assetRom ∧ t.launch = s.launch ∧
      (∀ bank off, cmdRead t bank off = cmdRead s bank off) ∧ (∀ bank off, assetRead t bank off = assetRead s bank off)

/-- 20_memory R50 (the spec's derivation), 70_reset R189: no step writes the buffer that is current after it. -/
def Obligations.CurrentBufferNeverWritten : Prop :=
  ∀ s t : State, NotReset s → step s = .next t → ∀ c, cellAt t t.curSel c = cellAt s t.curSel c

/-- 10_state R21, R23: only the Flipping step changes the buffer selection and the display outputs (reset apart). -/
def Obligations.OnlyFlipMovesDisplay : Prop :=
  ∀ s t : State, NotReset s → step s = .next t → s.phase ≠ .flipping →
    t.curSel = s.curSel ∧ t.dispActive = s.dispActive ∧ t.dispBorder = s.dispBorder

/-- 70_reset R189, 20_memory R50: while the display shows the current buffer, no instruction changes a displayed cell or
the displayed border. -/
def Obligations.DecodeKeepsPicture : Prop :=
  ∀ (i : Instr) (s t : State), s.dispActive = s.curSel → exec i s = .next t →
    (∀ c, displayedCell t c = displayedCell s c) ∧ displayedBorder t = displayedBorder s

/-- 10_state R26, 43_flip_governor R151: once set, `DISPLAY_ONLY` stays, and no step but reset writes a buffer or a tile,
flips, or moves the command position. In states no run reaches this rests on log 10. -/
def Obligations.DisplayOnlyStopsUpdates : Prop :=
  ∀ s t : State, NotReset s → s.displayOnly = true → step s = .next t →
    t.displayOnly = true ∧ t.mem = s.mem ∧ t.curSel = s.curSel ∧ t.dispActive = s.dispActive ∧
      t.dispBorder = s.dispBorder ∧ t.cmdBank = s.cmdBank ∧ t.cmdOff = s.cmdOff

/-- 20_memory R45: in platform memory cell `c` occupies the bytes at `FB_BASE[i] + 2c` (bits 7:0) and the next one
(bits 15:8). -/
def Obligations.CellBytesLittleEndian : Prop :=
  ∀ (s : State) (i : BufSel) (c : Nat), c < s.launch.prof.fbCells →
    platformByte s i (bufferBase s i + 2 * c) = some ((cellAt s i c).extractLsb' 0 8) ∧
    platformByte s i (bufferBase s i + 2 * c + 1) = some ((cellAt s i c).extractLsb' 8 8)
end

