-- ==== Sys2Proof/Laws/Run.lean ====
section
/-! SUPPORT. Runs of several steps and lists of instructions, one at a time. -/

namespace Sys2Proof.Machine

/-- One step of a host run, by the outcome of the machine's step. -/
theorem Core_run_succ (M : Host.Core) (n : Nat) (s : M.State) :
    (∀ t, M.step s = .next t → M.run (n + 1) s = M.run n t) ∧
      (∀ f, M.step s = .fault f → M.run (n + 1) s = .fault f) ∧
      ∀ r, M.step s = .refused r → M.run (n + 1) s = .refused r :=
  ⟨fun _ h => by simp only [Host.Core.run, h], fun _ h => by simp only [Host.Core.run, h],
    fun _ h => by simp only [Host.Core.run, h]⟩

/-- The model's `run` is the host's. -/
theorem run_eq_core_run (n : Nat) (s : State) : run n s = core.run n s := by
  induction n generalizing s with
  | zero => rfl
  | succ n ih =>
    have hc := Core_run_succ core n s
    cases h : step s with
    | next t => rw [show run (n + 1) s = run n t by simp only [run, h], ih t]; exact (hc.1 t h).symm
    | fault f => rw [show run (n + 1) s = .fault f by simp only [run, h]]; exact (hc.2.1 f h).symm
    | refused r => rw [show run (n + 1) s = .refused r by simp only [run, h]]; exact (hc.2.2 r h).symm

theorem run_succ {s t : State} (n : Nat) (h : step s = .next t) : run (n + 1) s = run n t := by
  simp only [run, h]

theorem execAll_cons {i : Instr} {is : List Instr} {s t : State} (h : exec i s = .next t) :
    execAll (i :: is) s = execAll is t := by
  simp only [execAll, h]

/-- Taking the Engine's turn, however it comes to have it. -/
theorem step_of_engineTurn {s : State} (h : EngineTurn s) : step s = engineStep (popTurn s) := by
  rcases h with ⟨h1, h2⟩ | ⟨rest, h⟩
  · rw [step_default h1 h2]; congr 1; cases s; simp_all [popTurn]
  · rw [step_engine h]; simp [popTurn, h]

/-- What a step is, by the turn that is taken. -/
theorem step_of_turn {s : State} {t : Turn} {rest : List Turn} (h : s.agenda = t :: rest) :
    step s = takeTurn t (popTurn s) := by
  rw [step_eq, h]; simp [popTurn, h]

/-- Taking a turn off the agenda changes the agenda and nothing else. -/
theorem popTurn_eq (s : State) : popTurn s = { s with agenda := s.agenda.tail } := rfl

end Sys2Proof.Machine
end

