-- ==== Sys2Proof/Laws/Exec.lean ====
section
/-! SUPPORT. One lemma each for `exec`, the Engine's step and the block's step that says everything it can do; later
proofs cite these and do not unfold the step function. -/

namespace Sys2Proof.Machine

/-- The effect of a placement of `tile` at cell `c` with stride `n` (41_placement R100, R102). -/
def placed (cls : OpClass) (c tile n : Nat) (s : State) : State :=
  moveCursor (advanceBy s.launch.prof c n) (writeNextCell c (tileWord tile) (advanceOff cls s))

/-- The effect of a PLA whose checks pass and whose block is `block` (41_placement R106). -/
def placedFetched (pos tile abank : Nat) (block : List Byte) (s : State) : State :=
  moveCursor (advanceBy s.launch.prof pos s.launch.prof.strideA) (writeNextCell pos (tileWord tile)
    (fetchTile (s.launch.assetBankBase + abank) (tileIndex s.launch.prof (tileWord tile)) block (advanceOff .placeA s)))

/-- Everything PLB can do. -/
theorem execPlb_cases (pos tile : Nat) (s : State) :
    (s.launch.prof.fbCells ≤ pos ∧ execPlb pos tile s = .next (raiseAtInstr .posRange s)) ∨
      (pos < s.launch.prof.fbCells ∧ execPlb pos tile s = .next (placed .placeB pos tile s.launch.prof.strideB s)) := by
  unfold execPlb
  rcases placeAndAdvance_cases pos (tileWord tile) s.launch.prof.strideB (advanceOff .placeB s) with ⟨h, e⟩ | ⟨h, e⟩
  · exact .inl ⟨h, by rw [e]; rfl⟩
  · exact .inr ⟨h, by rw [e]; rfl⟩

/-- Everything PUT can do. -/
theorem execPut_cases (tile : Nat) (s : State) :
    (s.launch.prof.fbCells ≤ s.cursor ∧ execPut tile s = .next (raiseAtInstr .posRange s)) ∨
      (s.cursor < s.launch.prof.fbCells ∧
        execPut tile s = .next (placed .put s.cursor tile s.launch.prof.strideM s)) := by
  unfold execPut
  rcases placeAndAdvance_cases s.cursor (tileWord tile) s.launch.prof.strideM (advanceOff .put s) with ⟨h, e⟩ | ⟨h, e⟩
  · exact .inl ⟨h, by rw [e]; rfl⟩
  · exact .inr ⟨h, by rw [e]; rfl⟩

/-- Everything PLA can do, in the order of its checks (41_placement R110). -/
theorem execPla_cases (pos tile abank aoff : Nat) (s : State) :
    let bank := s.launch.assetBankBase + abank
    let slot := tileIndex s.launch.prof (tileWord tile)
    (Config.topBank < bank ∧ execPla pos tile abank aoff s = .next (raiseAtInstr .assetBankRange s)) ∨
    (bank ≤ Config.topBank ∧ s.launch.prof.tileSlots ≤ slot ∧
      execPla pos tile abank aoff s = .next (raiseAtInstr .slotRange s)) ∨
    (bank ≤ Config.topBank ∧ slot < s.launch.prof.tileSlots ∧ assetBlock s bank aoff = none ∧
      execPla pos tile abank aoff s = .next (raiseAtInstr .assetMissing s)) ∨
    (∃ block, bank ≤ Config.topBank ∧ slot < s.launch.prof.tileSlots ∧ assetBlock s bank aoff = some block ∧
      ((s.launch.prof.fbCells ≤ pos ∧ execPla pos tile abank aoff s = .next (raiseAtInstr .posRange s)) ∨
        (pos < s.launch.prof.fbCells ∧
          execPla pos tile abank aoff s = .next (placedFetched pos tile abank block s)))) := by
  intro bank slot
  unfold execPla
  have hb : assetBlock (advanceOff .placeA s) bank aoff = assetBlock s bank aoff :=
    assetBlock_congr (s := s) (t := advanceOff .placeA s) rfl rfl _ _
  rcases placeFetched_cases pos tile abank aoff (advanceOff .placeA s) with
    ⟨h, e⟩ | ⟨h1, h2, e⟩ | ⟨h1, h2, h3, e⟩ | ⟨block, h1, h2, h3, e⟩
  · exact .inl ⟨h, by rw [e]; rfl⟩
  · exact .inr (.inl ⟨h1, h2, by rw [e]; rfl⟩)
  · exact .inr (.inr (.inl ⟨h1, h2, hb.symm.trans h3, by rw [e]; rfl⟩))
  · refine .inr (.inr (.inr ⟨block, h1, h2, hb.symm.trans h3, ?_⟩))
    rw [e]
    rcases placeAndAdvance_cases pos (tileWord tile) s.launch.prof.strideA
      (fetchTile bank slot block (advanceOff .placeA s)) with ⟨h4, e4⟩ | ⟨h4, e4⟩
    · exact .inl ⟨h4, by
        show settle s (placeAndAdvance pos (tileWord tile) s.launch.prof.strideA
          (fetchTile bank slot block (advanceOff .placeA s))) = _
        rw [e4]; rfl⟩
    · exact .inr ⟨h4, by
        show settle s (placeAndAdvance pos (tileWord tile) s.launch.prof.strideA
          (fetchTile bank slot block (advanceOff .placeA s))) = _
        rw [e4]; rfl⟩

/-- Everything BANK can do. -/
theorem execBank_cases (s : State) :
    (s.cmdBank.toNat = Config.topBank ∧ execBank s = .next (raiseAtInstr .cmdBankRange s)) ∨
      (s.cmdBank.toNat ≠ Config.topBank ∧ execBank s = .next { s with cmdBank := s.cmdBank + 1, cmdOff := 0 }) := by
  unfold execBank
  rcases switchBank_cases (advanceOff .bank s) with ⟨h, e⟩ | ⟨h, e⟩
  · exact .inl ⟨h, by rw [e]; rfl⟩
  · exact .inr ⟨h, by rw [e]; rfl⟩

/-- Everything an instruction can do: a precise fault, or the effect of its class. -/
theorem exec_cases {i : Instr} {s t : State} (h : exec i s = .next t) :
    (∃ code, code ≠ .unwritten ∧ t = raiseAtInstr code s) ∨
    (∃ pos tile, i = .plb pos tile ∧ pos < s.launch.prof.fbCells ∧
      t = placed .placeB pos tile s.launch.prof.strideB s) ∨
    (∃ tile, i = .put tile ∧ s.cursor < s.launch.prof.fbCells ∧
      t = placed .put s.cursor tile s.launch.prof.strideM s) ∨
    (∃ pos tile abank aoff block, i = .pla pos tile abank aoff ∧ s.launch.assetBankBase + abank ≤ Config.topBank ∧
      tileIndex s.launch.prof (tileWord tile) < s.launch.prof.tileSlots ∧
      assetBlock s (s.launch.assetBankBase + abank) aoff = some block ∧ pos < s.launch.prof.fbCells ∧
      t = placedFetched pos tile abank block s) ∨
    (i = .bank ∧ s.cmdBank.toNat ≠ Config.topBank ∧ t = { s with cmdBank := s.cmdBank + 1, cmdOff := 0 }) ∨
    (i = .borda ∧ t = setPendingBorder s.launch.borderA (advanceOff .borderA s)) ∨
    (i = .bordb ∧ t = setPendingBorder s.launch.borderB (advanceOff .borderB s)) ∨
    (i = .eos ∧ t = enterDone (signalStreamDone (advanceOff .endStream s))) ∨
    (∃ k, i = .eof k ∧ t = awaitBudget k (signalMoreFrames (advanceOff .endFrame s))) := by
  have fin : ∀ {u : State}, exec i s = .next u → t = u := fun e => by
    rw [h] at e; exact Host.Outcome.next.inj e
  cases i with
  | pla pos tile abank aoff =>
    rcases execPla_cases pos tile abank aoff s with ⟨-, e⟩ | ⟨-, -, e⟩ | ⟨-, -, -, e⟩ | ⟨block, h1, h2, h3, ⟨-, e⟩ | ⟨h4, e⟩⟩
    · exact .inl ⟨_, by decide, fin e⟩
    · exact .inl ⟨_, by decide, fin e⟩
    · exact .inl ⟨_, by decide, fin e⟩
    · exact .inl ⟨_, by decide, fin e⟩
    · exact .inr (.inr (.inr (.inl ⟨pos, tile, abank, aoff, block, rfl, h1, h2, h3, h4, fin e⟩)))
  | plb pos tile =>
    rcases execPlb_cases pos tile s with ⟨-, e⟩ | ⟨h1, e⟩
    · exact .inl ⟨_, by decide, fin e⟩
    · exact .inr (.inl ⟨pos, tile, rfl, h1, fin e⟩)
  | put tile =>
    rcases execPut_cases tile s with ⟨-, e⟩ | ⟨h1, e⟩
    · exact .inl ⟨_, by decide, fin e⟩
    · exact .inr (.inr (.inl ⟨tile, rfl, h1, fin e⟩))
  | bank =>
    rcases execBank_cases s with ⟨-, e⟩ | ⟨h1, e⟩
    · exact .inl ⟨_, by decide, fin e⟩
    · exact .inr (.inr (.inr (.inr (.inl ⟨rfl, h1, fin e⟩))))
  | borda => exact .inr (.inr (.inr (.inr (.inr (.inl ⟨rfl, fin rfl⟩)))))
  | bordb => exact .inr (.inr (.inr (.inr (.inr (.inr (.inl ⟨rfl, fin rfl⟩))))))
  | eos => exact .inr (.inr (.inr (.inr (.inr (.inr (.inr (.inl ⟨rfl, fin rfl⟩)))))))
  | eof k => exact .inr (.inr (.inr (.inr (.inr (.inr (.inr (.inr ⟨k, rfl, fin rfl⟩)))))))
  | reservedC0 b0 => exact .inl ⟨.reservedOpcode, by decide, fin rfl⟩
  | reservedE0 b0 => exact .inl ⟨.reservedOpcode, by decide, fin rfl⟩
  | reservedF4 b0 => exact .inl ⟨.reservedOpcode, by decide, fin rfl⟩

/-- Everything the Decoding step can do: a fetch fault, or an instruction whose bytes lie in the bank. -/
theorem stepDecode_cases {s t : State} (h : stepDecode s = .next t) :
    (∃ code, code ≠ .unwritten ∧ t = raiseAtInstr code s) ∨
    (∃ b0 bs, fetchWindow s = .ok (b0 :: bs) ∧ cmdRead s s.cmdBank s.cmdOff = some b0 ∧
      s.cmdOff + (1 + operandCount (classOf s.launch.prof b0)) ≤ s.launch.prof.bankSize ∧
      exec (decodeWindow s.launch.prof (classOf s.launch.prof b0) (b0 :: bs)) s = .next t) := by
  have unread : ∀ {i code}, readCmd s i = .error code → code ≠ .unwritten := by
    intro i code hr
    rcases readCmd_cases s i with ⟨-, e⟩ | ⟨-, -, e⟩ | ⟨b, -, -, e⟩ <;> rw [e] at hr <;> cases hr <;> decide
  have unreadOps : ∀ {n i code}, readOperands s i n = .error code → code ≠ .unwritten := by
    intro n
    induction n with
    | zero => intro i code hr; cases hr
    | succ n ih =>
      intro i code hr
      simp only [readOperands] at hr
      split at hr
      · cases hr; exact unread ‹_›
      · split at hr
        · cases hr; exact ih ‹_›
        · cases hr
  unfold stepDecode at h
  split at h
  · rename_i code hf
    refine .inl ⟨code, ?_, (Host.Outcome.next.inj h).symm⟩
    unfold fetchWindow at hf
    split at hf
    · cases hf; exact unread ‹_›
    · split at hf
      · cases hf; exact unreadOps ‹_›
      · cases hf
  · rename_i W hf
    obtain ⟨b0, bs, rfl, h0, hbs⟩ := fetchWindow_ok hf
    obtain ⟨hl, hr⟩ := readOperands_ok hbs
    refine .inr ⟨b0, bs, hf, ?_, ?_, ?_⟩
    · rcases readCmd_cases s 0 with ⟨-, e⟩ | ⟨-, -, e⟩ | ⟨b, -, e1, e⟩
      · rw [e] at h0; cases h0
      · rw [e] at h0; cases h0
      · rw [e] at h0; cases h0; exact e1
    · have inBank : ∀ {i b}, readCmd s i = .ok b → s.cmdOff + i < s.launch.prof.bankSize := by
        intro i b hb
        rcases readCmd_cases s i with ⟨-, e⟩ | ⟨-, -, e⟩ | ⟨b, h1, -, e⟩
        · rw [e] at hb; cases hb
        · rw [e] at hb; cases hb
        · exact h1
      cases hn : operandCount (classOf s.launch.prof b0) with
      | zero => exact inBank h0
      | succ n =>
        have := inBank (hr n (by omega))
        omega
    · simp only [decode, hl, Nat.lt_irrefl, if_false] at h
      rwa [List.take_of_length_le (by omega)] at h

/-- Everything the Engine's turn can do, by phase (43_flip_governor R140); without an enabled step nothing changes. -/
theorem engineStep_cases {s t : State} (h : engineStep s = .next t) :
    (engineEnabled s = false ∧ t = s) ∨ (s.phase = .decoding ∧ s.displayOnly = false ∧ stepDecode s = .next t) ∨
    (s.phase = .waiting ∧ t = stepWait s) ∨ (s.phase = .consuming ∧ t = stepConsume s) ∨
    (s.phase = .flipping ∧ s.displayOnly = false ∧ t = stepFlip s) ∨
    (s.phase = .done ∧ (∃ k, s.hostReq = some k ∧
      t = { s with budget := some (k.setWidth 3), hostReq := none, phase := .hostWaiting })) ∨
    (s.phase = .hostWaiting ∧ t = stepHostWait s) ∨ (s.phase = .hostConsuming ∧ t = stepHostConsume s) := by
  cases he : engineEnabled s with
  | false =>
    simp only [engineStep, he, Bool.false_eq_true, if_false] at h
    exact .inl ⟨rfl, (Host.Outcome.next.inj h).symm⟩
  | true =>
    right
    simp only [engineStep, he, if_true] at h
    simp only [engineEnabled] at he
    cases hp : s.phase <;> simp only [hp] at h he
    · exact .inl ⟨rfl, by simpa using he, h⟩
    · exact .inr (.inl ⟨rfl, (Host.Outcome.next.inj h).symm⟩)
    · exact .inr (.inr (.inl ⟨rfl, (Host.Outcome.next.inj h).symm⟩))
    · exact .inr (.inr (.inr (.inl ⟨rfl, by simpa using he, (Host.Outcome.next.inj h).symm⟩)))
    · obtain ⟨k, hk⟩ := Option.isSome_iff_exists.1 he
      refine .inr (.inr (.inr (.inr (.inl ⟨rfl, k, hk, ?_⟩))))
      rw [← Host.Outcome.next.inj h]
      simp only [stepHostAccept, hk]
    · exact .inr (.inr (.inr (.inr (.inr (.inl ⟨rfl, (Host.Outcome.next.inj h).symm⟩)))))
    · exact .inr (.inr (.inr (.inr (.inr (.inr ⟨rfl, (Host.Outcome.next.inj h).symm⟩)))))
    · cases he

/-- Everything a step can do, by the agent whose turn it is. -/
theorem step_cases {s t : State} (h : step s = .next t) :
    (EngineTurn s ∧ engineStep (popTurn s) = .next t) ∨ t = tickEvent (popTurn s) ∨ t = deliverTick (popTurn s) ∨
    (∃ k, s.phase = .done ∧ s.hostReq = none ∧ k ≤ 7 ∧ t = { popTurn s with hostReq := some (BitVec.ofNat 4 k) }) ∨
    ((∃ rest, s.agenda = .hostReset :: rest) ∧ t = hostReset (popTurn s)) := by
  cases ha : s.agenda with
  | nil =>
    have hs : popTurn s = s := by cases s; simp_all [popTurn]
    rw [step_eq, ha] at h
    rw [hs]
    simp only [defaultTurn] at h
    split at h
    · exact .inl ⟨.inl ⟨ha, ‹_›⟩, h⟩
    · exact .inr (.inr (.inl (Host.Outcome.next.inj h).symm))
  | cons turn rest =>
    rw [step_of_turn ha] at h
    cases turn with
    | engine => exact .inl ⟨.inr ⟨rest, ha⟩, h⟩
    | tick => exact .inr (.inl (Host.Outcome.next.inj h).symm)
    | deliver => exact .inr (.inr (.inl (Host.Outcome.next.inj h).symm))
    | hostWait k =>
      rcases hostWait_cases k (popTurn s) with ⟨h1, h2, h3, e⟩ | ⟨-, e⟩
      · exact .inr (.inr (.inr (.inl ⟨k, h1, h2, h3, by
          rw [show takeTurn (.hostWait k) (popTurn s) = hostWait k (popTurn s) from rfl, e] at h
          exact (Host.Outcome.next.inj h).symm⟩)))
      · rw [show takeTurn (.hostWait k) (popTurn s) = hostWait k (popTurn s) from rfl, e] at h
        cases h
    | hostReset => exact .inr (.inr (.inr (.inr ⟨⟨rest, rfl⟩, (Host.Outcome.next.inj h).symm⟩)))

end Sys2Proof.Machine
end

