-- ==== Sys2Proof/Tests/Slice0.lean ====
section
/-! SUPPORT. Tests on single steps, their expected results from 95_test_vectors or by hand from the encodings of
30_encoding and 40_codec, and for every obligation with hypotheses a concrete state and operands that meet them. -/

namespace Sys2Proof.Tests

open Sys2Proof.Machine

/-! ## Helpers -/

/-- The reset state with command bytes from `(bank, off)` on and the command position there. -/
def codeAt (bank : Bank) (off : Nat) (bytes : List Byte) : State :=
  { State.reset with
    cmdBank := bank
    cmdOff := off
    mem := { State.reset.mem with cmdRom := loadCommand profileP2 bank.toNat off bytes [] } }

/-- The sixteen asset bytes `A0..AF` at a linear offset, as program P2 of 95_test_vectors has them. -/
def assetCells (a : Nat) : List Host.Cell := (List.range 16).map fun j => (a + j, BitVec.ofNat 8 (0xA0 + j))

/-- A state that holds the asset block `(0x12, 0x30)` (95_test_vectors, program P2). -/
def withAsset : State :=
  { State.reset with mem := { State.reset.mem with assetRom := assetCells (0x12 * 65536 + 0x30) } }

/-- PLA 0, 0x005, 2, 3 at the start of the stream, with its asset block there. -/
def plaState : State :=
  { withAsset with mem := { withAsset.mem with cmdRom := loadCommand profileP2 0 0 [0x00, 0x00, 0x05, 0x20, 0x03] [] } }

/-- A state in a phase with a budget and a tick count. -/
def waitingAt (ph : Phase) (k : Option Budget) (tick : Tick) : State :=
  { State.reset with phase := ph, budget := k, tick := tick }

/-- One step, if it answers a next state. -/
def next? (s : State) : Option State :=
  match step s with
  | .next t => some t
  | .fault _ => none
  | .refused _ => none

/-- `n` steps, if they all answer. -/
def run? (n : Nat) (s : State) : Option State :=
  match run n s with
  | .next t => some t
  | .fault _ => none
  | .refused _ => none

/-! ## Well-formedness: each check refuses an ill-formed term, and its bound is the field's -/

theorem test_wf_pla_pos : WellFormed profileP2 (.pla 1024 0 0 0) = false := by decide
theorem test_wf_pla_tile : WellFormed profileP2 (.pla 0 4096 0 0) = false := by decide
theorem test_wf_pla_abank : WellFormed profileP2 (.pla 0 0 16 0) = false := by decide
theorem test_wf_pla_aoff : WellFormed profileP4 (.pla 0 0 0 2048) = false := by decide
theorem test_wf_plb_pos : WellFormed profileP2 (.plb 1024 0) = false := by decide
theorem test_wf_plb_tile : WellFormed profileP2 (.plb 0 4096) = false := by decide
theorem test_wf_put : WellFormed profileP2 (.put 16384) = false := by decide
theorem test_wf_reservedC0 : WellFormed profileP2 (.reservedC0 0xE0) = false := by decide
theorem test_wf_reservedE0 : WellFormed profileP2 (.reservedE0 0xF0) = false := by decide
theorem test_wf_reservedF4 : WellFormed profileP2 (.reservedF4 0xF8) = false := by decide
theorem test_wf_bounds : WellFormed profileP2 (.pla 1023 4095 15 4095) = true ∧
    WellFormed profileP4 (.pla 1023 4095 31 2047) = true ∧ WellFormed profileP2 (.put 16383) = true := by decide
theorem test_assembler : assemble profileP2 (.plb 22 0x011) = some [0x41, 0x60, 0x11] ∧
    assemble profileP2 (.put 16384) = none ∧ assemble profileP2 (.reservedC0 0xC0) = none := by decide

/-! ## Decoding words written out from the encodings (40_codec; 95_test_vectors section 2.1) -/

/-- V-CD17, V-CD18: one window, the two splits of its asset word. -/
theorem test_decode_pla : decode profileP2 [0x01, 0x23, 0x45, 0x67, 0x89] = .ok (.pla 18 0x345 6 0x789, []) ∧
    decode profileP4 [0x01, 0x23, 0x45, 0x67, 0x89] = .ok (.pla 18 0x345 12 0x789, []) := by decide

/-- V-CD19b, V-CD19c: every operand bit set. -/
theorem test_decode_pla_ones : decode profileP2 [0x3F, 0xFF, 0xFF, 0xFF, 0xFF] = .ok (.pla 1023 0xFFF 15 4095, []) ∧
    decode profileP4 [0x3F, 0xFF, 0xFF, 0xFF, 0xFF] = .ok (.pla 1023 0xFFF 31 2047, []) := by decide

/-- V-CD23, V-CD25. -/
theorem test_decode_plb : decode profileP2 [0x41, 0x23, 0x45] = .ok (.plb 18 0x345, []) ∧
    decode profileP4 [0x40, 0xA0, 0x01] = .ok (.plb 10 1, []) := by decide

/-- V-CD26, V-CD28, V-CD29. -/
theorem test_decode_put : decode profileP2 [0x80, 0x05] = .ok (.put 5, []) ∧
    decode profileP2 [0xA2, 0x34] = .ok (.put 0x2234, []) ∧ decode profileP4 [0xBF, 0xFF] = .ok (.put 0x3FFF, []) := by decide

theorem test_decode_bank : decode profileP2 [0xF0, 0x12] = .ok (.bank, [0x12]) := by decide
theorem test_decode_borda : decode profileP2 [0xF1] = .ok (.borda, []) := by decide
theorem test_decode_bordb : decode profileP2 [0xF2] = .ok (.bordb, []) := by decide
theorem test_decode_eos : decode profileP2 [0xF3] = .ok (.eos, []) := by decide

/-- V-CD20 to V-CD22. -/
theorem test_decode_eof : decode profileP2 [0xF8] = .ok (.eof 0, []) ∧ decode profileP2 [0xFB] = .ok (.eof 3, []) ∧
    decode profileP2 [0xFF] = .ok (.eof 7, []) := by decide

/-- 30_encoding R64(b): EOF's codes found wherever the rows put them, here in two rows out of order. -/
theorem test_encode_eof_rows :
    let p := { profileP2 with opmap := [⟨0xFC, 0xFC, .endFrame⟩, ⟨0xF0, 0xFC, .endFrame⟩, ⟨0x00, 0x00, .reservedC0⟩] }
    (List.range 8).map (fun k => encode p (.eof (BitVec.ofNat 3 k))) =
      [[0xF0], [0xF1], [0xF2], [0xF3], [0xFC], [0xFD], [0xFE], [0xFF]] := by decide +kernel

/-- V-CD7, and the last byte of the row. -/
theorem test_decode_reservedC0 : decode profileP2 [0xC0] = .ok (.reservedC0 0xC0, []) ∧
    decode profileP2 [0xDF] = .ok (.reservedC0 0xDF, []) := by decide

/-- V-CD8, and the first byte of the row. -/
theorem test_decode_reservedE0 : decode profileP2 [0xE0] = .ok (.reservedE0 0xE0, []) ∧
    decode profileP2 [0xEF] = .ok (.reservedE0 0xEF, []) := by decide

/-- V-CD13, V-CD14. -/
theorem test_decode_reservedF4 : decode profileP2 [0xF4] = .ok (.reservedF4 0xF4, []) ∧
    decode profileP2 [0xF7] = .ok (.reservedF4 0xF7, []) := by decide

/-- A window too short is refused by name. -/
theorem test_decode_short : decode profileP2 [0x01, 0x23] = .error (.missingOperands .placeA) ∧
    decode profileP2 [] = .error .noOpcode := by decide

/-- The table's numbering: bit 0 is the least significant bit of the first byte. -/
theorem test_table_words : decodeTableWord 24 0x452341 = some (.plb 18 0x345) ∧ decodeTableWord 8 0xF3 = some .eos ∧
    decodeTableWord 16 0x0580 = some (.put 5) := by decide

/-- V-CD17, V-CD27: position, tile index and attribute bits of a placement. -/
theorem test_triples : placementTriple profileP2 18 0x345 = (18, 0x145, 1) ∧
    placementTriple profileP2 0 0x300 = (0, 0x100, 1) ∧ assetByteOffset profileP4 0x789 = 0xF120 := by decide

/-- V-AD1 to V-AD9. -/
theorem test_advance : [0, 22, 23, 24, 31, 55, 56, 1015, 1023].map (advance1 profileP2) =
    [1, 23, 32, 25, 32, 64, 57, 1024, 1024] := by decide

/-! ## Single steps -/

/-- `withFetchWord` makes the next step run the instruction. -/
theorem test_withFetchWord : step (State.reset.withFetchWord 16 0x0580) =
    exec (.put 5) (popTurn (State.reset.withFetchWord 16 0x0580)) := rfl

/-- V-PL4: PLB 23 skips the padding. -/
theorem test_plb : (next? (codeAt 0 0 [0x41, 0x70, 0x11])).map (fun t => (cellAt t .fb1 23, cellAt t .fb0 23, t.cursor, t.cmdOff)) =
    some (0x0011, 0, 32, 3) := by decide

/-- V-PL7, W1's first row. -/
theorem test_put : (next? (codeAt 0 0 [0x80, 0x05])).map (fun t => (cellAt t .fb1 0, t.cursor, t.cmdOff)) = some (5, 1, 2) := by
  decide

/-- V-FT6: the cursor is past the grid. -/
theorem test_put_past : (next? { codeAt 0 9 [0x80, 0x01] with cursor := 1024 }).map (fun t => (t.fault, t.cmdOff)) =
    some (some ⟨.posRange, 0, 9, some 0x80⟩, 9) := by decide

/-- Program P2's PLA: the block, the asset bank, the cell, the cursor, and the command bank as before. -/
theorem test_pla : (next? plaState).map (fun t =>
    ((tileByte t 5 0, tileByte t 5 15, t.assetBank), (cellAt t .fb1 0, t.cursor, t.cmdBank, t.cmdOff))) =
    some ((some 0xA0, some 0xAF, some 0x12), (5, 1, 0, 5)) := by decide

/-- V-FT9: the asset bank is checked before the asset ROM. -/
theorem test_pla_order : (next? { codeAt 0 0 [0x00, 0x00, 0x05, 0x80, 0x00] with
    launch := { Launch.sample with assetBankBase := 0xF8 } }).map (·.fault) =
    some (some ⟨.assetBankRange, 0, 0, some 0x00⟩) := by decide

/-- V-SC2: legal as the bank's last byte. -/
theorem test_bank : (next? (codeAt 0x20 0xFFFF [0xF0])).map (fun t => (t.cmdBank, t.cmdOff)) = some (0x21, 0) := by decide

/-- V-SC3. -/
theorem test_bank_top : (next? (codeAt 0xFF 0x10 [0xF0])).map (·.fault) = some (some ⟨.cmdBankRange, 0xFF, 0x10, some 0xF0⟩) := by
  decide

/-- V-SC4. -/
theorem test_borda : (next? (codeAt 0 0 [0xF1])).map (·.pendingBorder) = some (some Config.borderA) := rfl

/-- V-SC5: the last one wins. -/
theorem test_bordb : (next? { codeAt 0 0 [0xF2] with pendingBorder := some Config.borderA }).map (·.pendingBorder) =
    some (some Config.borderB) := rfl

/-- V-SC6. -/
theorem test_eof : (next? (codeAt 0 0 [0xFB])).map (fun t => (t.budget, t.signal, t.phase, t.cmdOff)) =
    some (some 3, .moreFrames, .waiting, 1) := by decide

/-- W2, V-SC7. -/
theorem test_eos : (next? (codeAt 0 0 [0xF3])).map (fun t => (t.displayOnly, t.signal, t.phase, t.curSel, t.cmdOff)) =
    some (true, .streamDone, .done, .fb0, 1) := by decide

/-- V-SC8, V-SC9: the byte is recorded and the position is not advanced. -/
theorem test_reservedC0 : (next? (codeAt 0 7 [0xC0])).map (fun t => (t.fault, t.phase, t.cmdOff)) =
    some (some ⟨.reservedOpcode, 0, 7, some 0xC0⟩, .faulted, 7) := by decide
theorem test_reservedE0 : (next? (codeAt 0 7 [0xEF])).map (·.fault) = some (some ⟨.reservedOpcode, 0, 7, some 0xEF⟩) := by decide
theorem test_reservedF4 : (next? (codeAt 0 7 [0xF5])).map (·.fault) = some (some ⟨.reservedOpcode, 0, 7, some 0xF5⟩) := by decide

/-- V-FT2, V-FT3, V-FT4: the fetch faults. -/
theorem test_fetch_past_bank : (next? (codeAt 0 0xFFFD [0x01, 0x23, 0x45])).map (·.fault) =
    some (some ⟨.cmdPastBank, 0, 0xFFFD, some 0x01⟩) := by decide
theorem test_fetch_missing : (next? (codeAt 0 3 [])).map (·.fault) = some (some ⟨.cmdMissing, 0, 3, none⟩) := by decide
theorem test_fetch_missing_operand : (next? (codeAt 0 3 [0x80])).map (·.fault) = some (some ⟨.cmdMissing, 0, 3, some 0x80⟩) := by
  decide

/-- V-GV6: a tick latched in the critical section is kept. -/
theorem test_governor_latch :
    (run? 4 { waitingAt .waiting (some 3) 3 with agenda := [.engine, .tick, .engine, .deliver] }).map
      (fun t => (t.phase, t.tick, t.tickMasked, t.tickPending)) = some (.flipping, 1, false, false) := by decide

/-- V-GV7: the second tick of a critical section is lost. -/
theorem test_governor_lost :
    (run? 5 { waitingAt .waiting (some 3) 3 with agenda := [.engine, .tick, .tick, .engine, .deliver] }).map
      (fun t => (t.tick, t.tickPending)) = some (1, false) := by decide

/-- V-FT10. -/
theorem test_unwritten : (next? { waitingAt .waiting none 0 with cmdOff := 4 }).map (·.fault) =
    some (some ⟨.unwritten, 0, 4, none⟩) := by decide

/-- V-FL1. -/
theorem test_flip : (next? { State.reset with
      phase := .flipping, cursor := 1, signal := .moreFrames, mem := { State.reset.mem with fb1 := [(0, 5)] } }).map
    (fun t => (t.curSel, t.dispActive, cellAt t .fb0 0, t.cursor, t.signal, t.phase)) =
    some (.fb1, .fb1, 5, 0, .none, .decoding) := by decide

/-- V-FL2. -/
theorem test_flip_border : (next? { State.reset with phase := .flipping, pendingBorder := some Config.borderA }).map
    (fun t => (t.dispBorder, t.pendingBorder)) = some (Config.borderA, none) := rfl

/-- V-HW2: accept, wait, consume. -/
theorem test_host_wait : (run? 4 { waitingAt .done none 2 with agenda := [.hostWait 0] }).map
    (fun t => (t.phase, t.tick, t.budget, t.curSel)) = some (.done, 2, some 0, .fb0) := by decide

/-- V-HW3: a request outside Done is refused. -/
theorem test_host_wait_refused : step { State.reset with agenda := [.hostWait 3] } = .refused .hostWaitRefused := rfl

/-- V-TK2, V-TK4, V-TK6. -/
theorem test_tick_wraps : (next? { State.reset with tick := 0xFFFF, agenda := [.tick] }).map (·.tick) = some 0 := by decide
theorem test_tick_lost : (next? { State.reset with tick := 4, tickMasked := true, tickPending := true, agenda := [.tick] }).map
    (fun t => (t.tick, t.tickPending)) = some (4, true) := by decide
theorem test_tick_in_faulted : (next? { State.reset with phase := .faulted, tick := 4, agenda := [.tick] }).map (·.tick) =
    some 5 := by decide

/-- Both reference profiles are admitted, and one that breaks the pitch equation of 00_scope R3 is not. -/
theorem test_profiles : profileOk profileP2 = true ∧ profileOk profileP4 = true ∧
    profileOk { profileP2 with rowSkip := 8 } = false := by decide +kernel

/-- P2 with another layout of PUT's tile field. -/
def withPutTile (f : FieldLayout) : Profile := { profileP2 with layout := { layoutP2 with mTile := f } }

/-- P2 with PUT at 0x80 alone and the rest of its row reserved. -/
def onePut : Profile :=
  { profileP2 with opmap := ⟨0x80, 0xFF, .put⟩ :: ⟨0x81, 0xFF, .reservedC0⟩ :: ⟨0x82, 0xFE, .reservedC0⟩ ::
      ⟨0x84, 0xFC, .reservedC0⟩ :: ⟨0x88, 0xF8, .reservedC0⟩ :: ⟨0x90, 0xF0, .reservedC0⟩ :: ⟨0xA0, 0xE0, .reservedC0⟩ ::
      referenceOpmap.filter (fun r => r.cls != .put) }

/-- 30_encoding R64(c): a tile field that takes class bits only, one that leaves out `b1`, and one that cannot vary with
`b0` are refused; one that takes fewer low bits is not. -/
theorem test_put_tile : profileOk (withPutTile [⟨0, 7, 6⟩, ⟨1, 7, 0⟩]) = false ∧ profileOk (withPutTile [⟨0, 5, 0⟩]) = false ∧
    rowsPartition onePut = true ∧ profileOk onePut = false ∧ profileOk (withPutTile [⟨0, 3, 1⟩, ⟨1, 7, 0⟩]) = true := by
  decide +kernel

/-- No rule bounds a position field's width (log 15): a 22-bit one is launched. -/
theorem test_wide_position :
    profileOk { profileP2 with layout := { layoutP2 with bPos := [⟨0, 5, 0⟩, ⟨1, 7, 0⟩, ⟨2, 7, 0⟩] } } = true := by decide +kernel

/-- 20_memory R40: slot 5 has no byte 16, though slot 6 has a byte 0 next to it; and there is no asset bank 256. -/
theorem test_space_bounds :
    let s := { State.reset with mem := { State.reset.mem with tile := assetCells 96, assetRom := assetCells (256 * 65536) } }
    (tileByte s 6 0, tileByte s 5 16, assetRead s 256 0) = (some 0xA0, none, none) := by decide

/-- 20_memory R40: the last asset byte and the last tile byte of P2 are launched, the ones after them are not. -/
theorem test_launch_bounds :
    launchOk Launch.sample [] [(256 * 65536 - 1, 7)] [(512 * 16 - 1, 7)] = true ∧
    launchOk Launch.sample [] [(256 * 65536, 7)] [] = false ∧ launchOk Launch.sample [] [] [(512 * 16, 7)] = false := by
  decide +kernel

/-- 20_memory R45: little-endian bytes. -/
theorem test_cell_bytes : cellByte 0x1234 false = 0x34 ∧ cellByte 0x1234 true = 0x12 := by decide

/-! ## Witnesses: for every obligation with hypotheses, a concrete state and operands that meet them -/

/-- Every operand at its largest value, under both profiles. -/
theorem witness_DecodeOfEncode : profileP2.isReference ∧ WellFormed profileP2 (.pla 1023 4095 15 4095) = true ∧
    profileP4.isReference ∧ WellFormed profileP4 (.pla 1023 4095 31 2047) = true := by decide

/-- For EncodeOfDecode and DecodedIsWellFormed. -/
theorem witness_EncodeOfDecode : profileP4.isReference ∧
    decode profileP4 [0x3F, 0xFF, 0xFF, 0xFF, 0xFF, 0x07] = .ok (.pla 1023 4095 31 2047, [0x07]) := by decide

theorem witness_ClassSelection : rowsPartition profileP2 = true ∧ (⟨0xF8, 0xF8, .endFrame⟩ : OpRow) ∈ profileP2.opmap ∧
    (0xFF : Byte) &&& 0xF8 = 0xF8 ∧ profileP2.isReference := by decide +kernel

/-- The last opcode byte of each length. -/
theorem witness_LengthByOpcode : profileP2.isReference ∧ decode profileP2 [0x3F, 0, 0, 0, 0] = .ok (.pla 1008 0 0 0, []) ∧
    decode profileP2 [0x7F, 0, 0] = .ok (.plb 1008 0, []) ∧ decode profileP2 [0xBF, 0] = .ok (.put 16128, []) ∧
    decode profileP2 [0xFF, 0] = .ok (.eof 7, [0]) := by decide

theorem witness_PlacementFields : profileP2.isReference ∧ (0x3F : Byte).toNat < 0x40 ∧
    0x40 ≤ (0x40 : Byte).toNat ∧ (0x7F : Byte).toNat < 0x80 := by decide

theorem witness_PutField : profileP2.isReference ∧ 0x80 ≤ (0x80 : Byte).toNat ∧ (0xBF : Byte).toNat < 0xC0 := by decide

theorem witness_EofBudgetField : profileP2.isReference ∧ classOf profileP2 0xF8 = .endFrame ∧
    classOf profileP2 0xFF = .endFrame := by decide

theorem witness_ProfilesDifferInAssetSplit :
    decode profileP2 [0x3F, 0xFF, 0xFF, 0xFF, 0xFF] = .ok (.pla 1023 4095 15 4095, []) ∧
    decode profileP2 [0xBF, 0xFF] = .ok (.put 0x3FFF, []) := by decide

theorem witness_StepRunsDecoded : EngineTurn (codeAt 0 0 [0x80, 0x05]) ∧ (codeAt 0 0 [0x80, 0x05]).phase = .decoding ∧
    (codeAt 0 0 [0x80, 0x05]).displayOnly = false ∧
    (∀ j < 2, cmdRead (codeAt 0 0 [0x80, 0x05]) 0 (0 + j) = ([0x80, 0x05] : List Byte)[j]?) ∧
    decode profileP2 [0x80, 0x05] = .ok (.put 5, []) :=
  ⟨.inl ⟨rfl, rfl⟩, rfl, rfl, by decide, by decide⟩

/-- The opcode byte past the bank, and the last byte of the bank missing. -/
theorem witness_FetchFaults_opcode : EngineTurn (codeAt 0 65536 []) ∧ profileP2.bankSize ≤ (codeAt 0 65536 []).cmdOff ∧
    EngineTurn (codeAt 0 65535 []) ∧ (codeAt 0 65535 []).cmdOff < profileP2.bankSize ∧
    cmdRead (codeAt 0 65535 []) 0 65535 = none :=
  ⟨.inl ⟨rfl, rfl⟩, by decide, .inl ⟨rfl, rfl⟩, by decide, by decide⟩

/-- A PLA whose last operand byte is past the bank, and one whose last operand byte is missing. -/
theorem witness_FetchFaults_operand :
    (∀ j < 4, (cmdRead (codeAt 0 0xFFFC [0x01, 0x23, 0x45, 0x67]) 0 (0xFFFC + j)).isSome = true) ∧
    profileP2.bankSize ≤ 0xFFFC + 4 ∧ operandCount (classOf profileP2 0x01) = 4 ∧
    (∀ j < 4, (cmdRead (codeAt 0 0xFFFB [0x01, 0x23, 0x45, 0x67]) 0 (0xFFFB + j)).isSome = true) ∧
    0xFFFB + 4 < profileP2.bankSize ∧ cmdRead (codeAt 0 0xFFFB [0x01, 0x23, 0x45, 0x67]) 0 (0xFFFB + 4) = none := by decide

theorem witness_FaultsArePreciseAndSticky :
    (∃ t, step (codeAt 0 7 [0xC0]) = .next t ∧ (codeAt 0 7 [0xC0]).phase ≠ .faulted ∧ t.phase = .faulted) ∧
    (∃ t, step { State.reset with phase := .faulted, agenda := [.tick] } = .next t ∧
      NotReset { State.reset with phase := .faulted, agenda := [.tick] }) ∧
    { State.reset with phase := .faulted, agenda := [.tick] }.tickMasked = false ∧
    { State.reset with phase := .faulted, agenda := [.engine] }.agenda = .engine :: [] :=
  ⟨⟨_, rfl, by decide, rfl⟩, ⟨_, rfl, fun _ h => by cases h⟩, rfl, rfl⟩

theorem witness_EveryTurnAnswers : NotHostWait State.reset := fun _ _ h => by cases h

theorem witness_AdvanceOneStep : profileP2.isReference ∧ 1015 % 32 = 23 ∧ 22 % 32 ≠ 23 ∧ 1023 % 32 = 31 := by decide

theorem witness_CursorStaysInGrid : profileP2.fbPitch = profileP2.rowLastCol + profileP2.rowSkip ∧
    1023 < profileP2.fbCells := by decide

/-- The last cell, and the first one past the grid. -/
theorem witness_PlbCompletes : 1023 < State.reset.launch.prof.fbCells ∧ State.reset.launch.prof.fbCells ≤ 1024 := by decide

theorem witness_PutCompletes : { State.reset with cursor := 1023 }.cursor < State.reset.launch.prof.fbCells ∧
    State.reset.launch.prof.fbCells ≤ { State.reset with cursor := 1024 }.cursor := by decide

/-- The PLA of program P2, and one in the top asset bank. -/
theorem witness_PlaCompletes :
    (0x10 + 2 ≤ 255 ∧ tileIndex profileP2 (tileWord 5) < profileP2.tileSlots ∧
      (∀ j < 16, (assetRead withAsset (0x10 + 2) (3 * 16 + j)).isSome = true) ∧ 0 < profileP2.fbCells) ∧
    (0xF0 + 15 ≤ 255 ∧ tileIndex profileP2 (tileWord 4095) < profileP2.tileSlots ∧
      (∀ j < 16, (assetRead { withAsset with mem := { withAsset.mem with assetRom := assetCells (0xFF * 65536 + 0xFFF0) } }
        (0xF0 + 15) (4095 * 16 + j)).isSome = true) ∧ 1023 < profileP2.fbCells) := by decide

/-- Each check: the first bank past the top, the slot of V-PL5 under 256 slots, an absent block, the first cell past
the grid. -/
theorem witness_PlaChecksInOrder : 255 < 0xF1 + 15 ∧
    ({ profileP2 with tileSlots := 256 } : Profile).tileSlots ≤
      tileIndex { profileP2 with tileSlots := 256 } (tileWord 0x345) ∧
    ¬ (∀ j < 16, (assetRead withAsset (0x10 + 2) (2 * 16 + j)).isSome = true) ∧ profileP2.fbCells ≤ 1024 := by decide

/-- A PLA that completes and one that faults; for PlaKeepsCommandStream and the statements about a next state. -/
theorem witness_PlaKeepsCommandStream :
    (∃ t, exec (.pla 0 5 2 3) withAsset = .next t ∧ t.cmdOff = 5) ∧
    (∃ t, exec (.pla 0 5 2 4) withAsset = .next t ∧ t.phase = .faulted) :=
  ⟨⟨_, rfl, rfl⟩, ⟨_, rfl, rfl⟩⟩

theorem witness_OnlyPlacedCellChanges :
    ∃ t, exec (.put 5) State.reset = .next t ∧ cellAt t .fb1 0 ≠ cellAt State.reset .fb1 0 :=
  ⟨_, rfl, by decide⟩

theorem witness_OnlyPlaWritesTiles : ∃ t, step plaState = .next t ∧ t.mem.tile ≠ plaState.mem.tile :=
  ⟨_, rfl, by decide⟩

theorem witness_CursorLaw : State.reset.launch.prof.isReference ∧ State.reset.cursor = 0 ∧
    (List.replicate 768 0).length ≤ 768 := ⟨.inl rfl, rfl, le_of_eq List.length_replicate⟩

theorem witness_BankCompletes : (codeAt 0xFE 0 [0xF0]).cmdBank.toNat < 255 ∧ (codeAt 0xFF 0 [0xF0]).cmdBank.toNat = 255 := by
  decide

/-- The first and the last byte of the reserved ranges. -/
theorem witness_ReservedFaults : EngineTurn (codeAt 0 7 [0xC0]) ∧ EngineTurn (codeAt 0 7 [0xF7]) ∧
    cmdRead (codeAt 0 7 [0xC0]) 0 7 = some 0xC0 ∧ cmdRead (codeAt 0 7 [0xEF]) 0 7 = some 0xEF ∧
    cmdRead (codeAt 0 7 [0xF4]) 0 7 = some 0xF4 ∧ cmdRead (codeAt 0 7 [0xF7]) 0 7 = some 0xF7 :=
  ⟨.inl ⟨rfl, rfl⟩, .inl ⟨rfl, rfl⟩, by decide, by decide, by decide, by decide⟩

theorem witness_PositionMovesForward : (∃ t, exec .bank State.reset = .next t) ∧ ∃ t, exec (.put 1) State.reset = .next t :=
  ⟨⟨_, rfl⟩, ⟨_, rfl⟩⟩

theorem witness_OnlyBankSwitchesBank : NotReset (codeAt 0x20 0xFFFF [0xF0]) ∧
    ∃ t, step (codeAt 0x20 0xFFFF [0xF0]) = .next t ∧ t.cmdBank ≠ 0x20 :=
  ⟨fun _ h => (by cases h), _, rfl, by decide⟩

/-- No budget, a budget just reached, and a budget one tick short. -/
theorem witness_WaitingStep : EngineTurn (waitingAt .waiting none 0) ∧ EngineTurn (waitingAt .waiting (some 7) 7) ∧
    (7 : Budget).toNat ≤ (7 : Tick).toNat ∧ (6 : Tick).toNat < (7 : Budget).toNat ∧
    { waitingAt .waiting (some 7) 6 with agenda := [.engine] }.agenda = .engine :: [] :=
  ⟨.inl ⟨rfl, rfl⟩, .inl ⟨rfl, rfl⟩, by decide, by decide, rfl⟩

/-- For ConsumingStep and the second clause of HostWaitSteps. -/
theorem witness_ConsumingStep : EngineTurn (waitingAt .consuming (some 7) 7) ∧
    EngineTurn (waitingAt .hostConsuming (some 7) 7) ∧ (7 : Budget).toNat ≤ (7 : Tick).toNat :=
  ⟨.inl ⟨rfl, rfl⟩, .inl ⟨rfl, rfl⟩, by decide⟩

theorem witness_FlippingStep : EngineTurn (waitingAt .flipping (some 0) 0) ∧ (waitingAt .flipping (some 0) 0).phase = .flipping ∧
    (waitingAt .flipping (some 0) 0).displayOnly = false := ⟨.inl ⟨rfl, rfl⟩, rfl, rfl⟩

/-- The largest request, one past it, and the accept. -/
theorem witness_HostRequestInDone :
    (waitingAt .done none 0).phase = .done ∧ (waitingAt .done none 0).hostReq = none ∧ (7 ≤ 7 ∧ ¬ 8 ≤ 7) ∧
    EngineTurn { waitingAt .done none 0 with hostReq := some 7 } ∧ (7 : BitVec 4).toNat ≤ 7 :=
  ⟨rfl, rfl, by decide, .inl ⟨rfl, rfl⟩, by decide⟩

theorem witness_HostWaitSteps : EngineTurn (waitingAt .hostWaiting (some 7) 7) ∧ (7 : Budget).toNat ≤ (7 : Tick).toNat ∧
    (6 : Tick).toNat < (7 : Budget).toNat ∧ { waitingAt .hostWaiting (some 7) 6 with agenda := [.engine] }.agenda = .engine :: [] :=
  ⟨.inl ⟨rfl, rfl⟩, by decide, by decide, rfl⟩

theorem witness_UnwrittenBudgetFaults : EngineTurn (waitingAt .waiting none 0) ∧ EngineTurn (waitingAt .consuming none 0) ∧
    EngineTurn (waitingAt .hostWaiting none 0) ∧ EngineTurn (waitingAt .hostConsuming none 0) :=
  ⟨.inl ⟨rfl, rfl⟩, .inl ⟨rfl, rfl⟩, .inl ⟨rfl, rfl⟩, .inl ⟨rfl, rfl⟩⟩

/-- V-GV5's budget: seven ticks asked for, one already counted. -/
theorem witness_BudgetLaw : (waitingAt .waiting (some 7) 1).tickMasked = false ∧ (1 : Tick).toNat + 6 = (7 : Budget).toNat ∧
    { waitingAt .waiting (some 7) 1 with
      agenda := [.engine, .tick, .engine, .tick, .engine, .tick, .engine, .tick, .engine, .tick, .engine, .tick, .engine,
        .engine] }.agenda = (List.replicate 6 [Turn.engine, Turn.tick]).flatten ++ .engine :: .engine :: [] := by decide

/-- An empty frame of budget 1 that decodes, holds, is ticked, masks, consumes, and is delivered a tick before its flip. -/
def emptyFrame : State :=
  { codeAt 0 0 [0xF9] with agenda := [.engine, .engine, .tick, .engine, .tick, .engine, .deliver, .engine] }

theorem witness_EmptyFrameKeepsPicture : Turn.hostReset ∉ emptyFrame.agenda ∧ emptyFrame.dispActive = emptyFrame.curSel ∧
    (∀ c, cellAt emptyFrame .fb0 c = cellAt emptyFrame .fb1 c) ∧ cmdRead emptyFrame 0 0 = some 0xF9 ∧
    classOf profileP2 0xF9 = .endFrame ∧
    (∃ u, run 7 emptyFrame = .next u ∧ u.phase = .flipping ∧ EngineTurn u) ∧
    (∀ m < 7, ∀ v, run m emptyFrame = .next v → v.phase = .flipping → ¬ EngineTurn v) := by
  refine ⟨by decide, rfl, fun _ => rfl, by decide, by decide, ⟨_, rfl, rfl, .inr ⟨[], rfl⟩⟩, ?_⟩
  intro m hm v hv hp ht
  have hm' : m = 0 ∨ m = 1 ∨ m = 2 ∨ m = 3 ∨ m = 4 ∨ m = 5 ∨ m = 6 := by omega
  rcases hm' with rfl | rfl | rfl | rfl | rfl | rfl | rfl <;> cases Host.Outcome.next.inj hv <;> cases hp
  rcases ht with ⟨h, -⟩ | ⟨rest, h⟩ <;> cases h

/-- The second clause: a budget already covered and no turn named. -/
theorem witness_EmptyFrameKeepsPicture_covered : (codeAt 0 0 [0xF8]).agenda = [] ∧ cmdRead (codeAt 0 0 [0xF8]) 0 0 = some 0xF8 ∧
    (budgetOf 0xF8).toNat ≤ (codeAt 0 0 [0xF8]).tick.toNat := by decide

/-- The Engine's turn in every phase, with `DISPLAY_ONLY` as the phase says. -/
theorem witness_PhaseTransitions : ∀ ph ∈ [Phase.decoding, .waiting, .consuming, .flipping, .done, .hostWaiting,
    .hostConsuming, .faulted],
    ({ waitingAt ph (some 0) 0 with displayOnly := ph.afterStream, agenda := [.engine] } : State).displayOnly =
      ({ waitingAt ph (some 0) 0 with displayOnly := ph.afterStream, agenda := [.engine] } : State).phase.afterStream ∧
    ({ waitingAt ph (some 0) 0 with displayOnly := ph.afterStream, agenda := [.engine] } : State).agenda = .engine :: [] :=
  fun _ _ => ⟨rfl, rfl⟩

theorem witness_TickTurns : { State.reset with agenda := [.tick] }.agenda = .tick :: [] ∧
    { State.reset with agenda := [.tick], tickMasked := true }.tickMasked = true ∧
    { State.reset with agenda := [.deliver], tickPending := true }.agenda = .deliver :: [] := ⟨rfl, rfl, rfl⟩

theorem witness_ResetValues :
    { State.reset with phase := .faulted, agenda := [.hostReset] }.agenda = .hostReset :: [] := rfl

/-- A profile one column short, and a launch at the last entry offset. -/
theorem witness_LaunchChecksProfile :
    ¬ ({ profileP2 with rowSkip := 8 } : Profile).fbPitch = profileP2.rowLastCol + 8 ∧
    ({ Launch.sample with cmdOffStart := 65536 } : Launch).prof.isReference ∧
    ({ Launch.sample with cmdOffStart := 65536 } : Launch).cmdOffStart ≤ 65536 ∧ Store.sorted (assetCells 0) = true ∧
    Store.below (256 * 65536) (assetCells 0) = true ∧ Store.below (512 * profileP2.tileBytes) (assetCells 0) = true :=
  ⟨by decide, .inl rfl, by decide, by decide, by decide, by decide⟩

/-- The first address outside each space, the last one inside, and a launch with a cell at the first one outside. -/
theorem witness_AddressSpaceBounds : State.reset.launch.prof.bankSize ≤ 65536 ∧ 65535 < State.reset.launch.prof.bankSize ∧
    256 ≤ 256 ∧ State.reset.launch.prof.tileSlots ≤ 512 ∧ State.reset.launch.prof.tileBytes ≤ 16 ∧
    (511 < State.reset.launch.prof.tileSlots ∧ 15 < State.reset.launch.prof.tileBytes) ∧
    State.reset.launch.prof.fbCells ≤ 1024 ∧
    (256 * 65536, 7) ∈ ([(256 * 65536, 7)] : List Host.Cell) ∧ 256 * Launch.sample.prof.bankSize ≤ 256 * 65536 ∧
    Launch.sample.prof.tileSlots * Launch.sample.prof.tileBytes ≤ 8192 := by decide

/-- PUT's tile field without `b0`, and without `b1`; an opcode map without EOF codes; one with two BANK codes. -/
theorem witness_LaunchChecksEncoding :
    (∀ b0 c0 b1 : Byte, putTile (withPutTile [⟨1, 7, 0⟩]) b0 b1 = putTile (withPutTile [⟨1, 7, 0⟩]) c0 b1) ∧
    (∀ b0 b1 c1 : Byte, putTile (withPutTile [⟨0, 5, 0⟩]) b0 b1 = putTile (withPutTile [⟨0, 5, 0⟩]) b0 c1) ∧
    (∀ b0 : Byte, classOf { profileP2 with opmap := [] } b0 ≠ .endFrame) ∧
    classOf { profileP2 with opmap := [⟨0xF0, 0xFE, .bank⟩] } 0xF0 = .bank ∧
    classOf { profileP2 with opmap := [⟨0xF0, 0xFE, .bank⟩] } 0xF1 = .bank :=
  ⟨fun _ _ _ => rfl, fun _ _ _ => rfl, fun _ h => (by cases h), by decide, by decide⟩

/-- A state inside a critical section meets the invariant, and steps. -/
theorem witness_StepKeepsInvariant :
    Inv { waitingAt .consuming (some 7) 7 with tickMasked := true, tickPending := true, signal := .moreFrames, cursor := 1024 } ∧
    ∃ t, step { waitingAt .consuming (some 7) 7 with
      tickMasked := true, tickPending := true, signal := .moreFrames, cursor := 1024 } = .next t := by
  refine ⟨⟨.inl rfl, by decide, by decide, by decide, rfl, rfl, fun _ => .inl rfl, by decide, by decide, ?_, ?_, ?_, rfl, rfl,
    ?_⟩, _, rfl⟩
  · exact fun _ => rfl
  · exact fun _ => ⟨7, rfl, by decide⟩
  · exact ⟨fun h => (by cases h), fun h => (by cases h)⟩
  · exact fun k h => by cases h

theorem witness_ResetMeetsInvariant : ({ Launch.sample with prof := profileP4, cmdOffStart := 65536 } : Launch).prof.isReference ∧
    ({ Launch.sample with prof := profileP4, cmdOffStart := 65536 } : Launch).cmdOffStart ≤ profileP4.bankSize ∧
    Store.sorted (assetCells 0) = true ∧ Store.below (256 * profileP4.bankSize) (assetCells 0) = true ∧
    Store.below (512 * 32) (assetCells 0) = true := ⟨.inr rfl, by decide, by decide, by decide, by decide⟩

/-- For StepKeepsMemoryForm and RomsNeverWritten. -/
theorem witness_StepKeepsMemoryForm : plaState.mem.wf = true ∧ ∃ t, step plaState = .next t := ⟨by decide, _, rfl⟩

/-- For CurrentBufferNeverWritten and OnlyFlipMovesDisplay. -/
theorem witness_CurrentBufferNeverWritten : NotReset plaState ∧ plaState.phase ≠ .flipping ∧ ∃ t, step plaState = .next t :=
  ⟨fun _ h => (by cases h), by decide, _, rfl⟩

theorem witness_DecodeKeepsPicture : State.reset.dispActive = State.reset.curSel ∧ ∃ t, exec (.put 5) State.reset = .next t :=
  ⟨rfl, _, rfl⟩

theorem witness_DisplayOnlyStopsUpdates : NotReset { waitingAt .done none 0 with displayOnly := true, hostReq := some 3 } ∧
    ∃ t, step { waitingAt .done none 0 with displayOnly := true, hostReq := some 3 } = .next t :=
  ⟨fun _ h => (by cases h), _, rfl⟩

theorem witness_CellBytesLittleEndian : 1023 < State.reset.launch.prof.fbCells := by decide

end Sys2Proof.Tests
end

section
/-! Launch checks: what `profileOk` and `contentsOk` ask, that both reference profiles meet it (00_scope R3), and O43. -/

namespace Sys2Proof.Machine

/-! ## The profile check -/

/-- The equations of 00_scope R3, and that a bank is not empty. -/
theorem geometryOk_iff (p : Profile) : geometryOk p = true ↔
    p.fbPitch = p.rowLastCol + p.rowSkip ∧ p.tileSlots = 2 ^ p.tileIndexBits ∧
      2 ^ p.assetOffsetBits * p.tileBytes = p.bankSize ∧ 0 < p.bankSize := by
  simp [geometryOk, and_assoc]

theorem profileOk_iff (p : Profile) : profileOk p = true ↔
    geometryOk p = true ∧ rowsPartition p = true ∧ eofCodesOk p = true ∧ fixedCodesOk p = true ∧ layoutOk p = true := by
  simp [profileOk, and_assoc]

/-- A profile that fails any of its checks is refused when it is configured (00_scope R3). -/
theorem boot_refused_of_not_profileOk {l : Launch} (h : ¬ profileOk l.prof = true) (cmdRom assetRom tile : List Host.Cell) :
    boot l cmdRom assetRom tile = .refused .launchOutsideSpec := by
  rcases boot_cases l cmdRom assetRom tile with ⟨hok, -⟩ | ⟨-, hrefused⟩
  · exact absurd ((launchOk_iff l cmdRom assetRom tile).1 hok).1 h
  · exact hrefused

theorem boot_next_of_launchOk {l : Launch} {cmdRom assetRom tile : List Host.Cell}
    (h : launchOk l cmdRom assetRom tile = true) :
    boot l cmdRom assetRom tile = .next (State.resetWith l cmdRom assetRom tile) := by
  simp [boot, h]

/-! ## The memory contents check -/

/-- Both buffers are empty at reset, so the canonical form is a matter of the contents given. -/
theorem resetWith_mem_wf_iff (l : Launch) (cmdRom assetRom tile : List Host.Cell) :
    (State.resetWith l cmdRom assetRom tile).mem.wf = true ↔
      Store.sorted cmdRom = true ∧ Store.sorted assetRom = true ∧ Store.sorted tile = true := by
  simp [Memory.wf_iff, State.resetWith, cellsCanonical, Store.sorted]

/-- Both buffers are empty at reset, so the address spaces bound the contents given only (20_memory R40). -/
theorem resetWith_mem_inRange_iff (l : Launch) (cmdRom assetRom tile : List Host.Cell) (p : Profile) :
    (State.resetWith l cmdRom assetRom tile).mem.inRange p = true ↔
      Store.below (romSize p) cmdRom = true ∧ Store.below (romSize p) assetRom = true ∧
        Store.below (p.tileSlots * p.tileBytes) tile = true := by
  simp [Memory.inRange_iff, State.resetWith, Store.below]

/-! ## The reference profiles -/

section Reference

variable {p : Profile} (h : p.isReference)
include h

theorem bankSize_reference : p.bankSize = 65536 := by
  rcases h with rfl | rfl <;> rfl

theorem tileSlots_reference : p.tileSlots = 512 := by
  rcases h with rfl | rfl <;> rfl

theorem opmap_reference : p.opmap = referenceOpmap := by
  rcases h with rfl | rfl <;> rfl

theorem romSize_reference : romSize p = 256 * 65536 := by
  rw [romSize, bankSize_reference h, Config.topBank]

theorem geometryOk_reference : geometryOk p = true := by
  rcases h with rfl | rfl <;> decide

/-- Every byte lies in one row of table E-1 (30_encoding R63). -/
theorem rowsPartition_reference : rowsPartition p = true := by
  rw [rowsPartition, opmap_reference h]
  decide +kernel

theorem eofCodesOk_reference : eofCodesOk p = true := by
  rcases h with rfl | rfl <;> decide +kernel

theorem fixedCodesOk_reference : fixedCodesOk p = true := by
  rcases h with rfl | rfl <;> decide +kernel

theorem layoutOk_reference : layoutOk p = true := by
  rcases h with rfl | rfl <;> decide +kernel

theorem profileOk_reference : profileOk p = true :=
  (profileOk_iff p).2 ⟨geometryOk_reference h, rowsPartition_reference h, eofCodesOk_reference h, fixedCodesOk_reference h,
    layoutOk_reference h⟩

end Reference

/-! ## The obligation -/

/-- Settles O43: a broken equation fails `geometryOk` (the one of `FB_CELLS` cannot break, being its definition), and a
launch of P2 or P4 meets every check of `launchOk`. -/
theorem launchChecksProfile : Obligations.LaunchChecksProfile := by
  refine ⟨fun l cmdRom assetRom tile hbroken => ?_, fun l cmdRom assetRom tile href hoff hcSorted haSorted htSorted
    hcBelow haBelow htBelow => ?_⟩
  · refine boot_refused_of_not_profileOk (fun hprof => hbroken ?_) cmdRom assetRom tile
    obtain ⟨hpitch, hslots, hbank, -⟩ := (geometryOk_iff l.prof).1 ((profileOk_iff l.prof).1 hprof).1
    exact ⟨rfl, hpitch, hslots, hbank⟩
  · have hentry : l.cmdOffStart ≤ l.prof.bankSize := by rwa [bankSize_reference href]
    have hform := (resetWith_mem_wf_iff l cmdRom assetRom tile).2 ⟨hcSorted, haSorted, htSorted⟩
    have hrange : (State.resetWith l cmdRom assetRom tile).mem.inRange l.prof = true := by
      rw [resetWith_mem_inRange_iff, romSize_reference href, tileSlots_reference href]
      exact ⟨hcBelow, haBelow, htBelow⟩
    exact boot_next_of_launchOk
      ((launchOk_iff l cmdRom assetRom tile).2 ⟨profileOk_reference href, hentry, hform, hrange⟩)

end Sys2Proof.Machine
end

section
/-! The invariant of the block (10_state R30): it holds at reset, and every step of every agent keeps it; O46 and O47. -/

namespace Sys2Proof.Machine

/-! ## What the clauses need of a reference profile -/

section Reference

variable {p : Profile} (h : p.isReference)
include h

theorem strides_reference : p.strideA = 1 ∧ p.strideB = 1 ∧ p.strideM = 1 := by
  rcases h with rfl | rfl <;> exact ⟨rfl, rfl, rfl⟩

theorem cursorStart_reference : p.cursorStart = 0 := by
  rcases h with rfl | rfl <;> rfl

end Reference

/-- A cursor step from inside the grid stays in it: the row skip ends at the start of the next row (41_placement R102). -/
theorem advance1_le_fbCells {p : Profile} {c : Nat} (hpitch : p.fbPitch = p.rowLastCol + p.rowSkip) (hc : c < p.fbCells) :
    advance1 p c ≤ p.fbCells := by
  unfold advance1
  split
  · rename_i hcol
    have hrow : c / p.fbPitch < p.fbRows := Nat.div_lt_of_lt_mul hc
    calc c + p.rowSkip = p.fbPitch * (c / p.fbPitch) + p.fbPitch := by
          have := Nat.div_add_mod c p.fbPitch
          omega
      _ = p.fbPitch * (c / p.fbPitch + 1) := (Nat.mul_succ _ _).symm
      _ ≤ p.fbCells := Nat.mul_le_mul_left _ hrow
  · exact hc

/-- An instruction of the window's own class (40_codec R90). -/
theorem classOfInstr_decodeWindow (p : Profile) (cls : OpClass) (W : List Byte) :
    classOfInstr (decodeWindow p cls W) = cls := by
  cases cls <;> rfl

/-! ## Memory stays in its address spaces -/

theorem Memory.below_fb {p : Profile} {m : Memory} (h : m.inRange p = true) (i : BufSel) :
    Store.below p.fbCells (m.fb i) = true := by
  obtain ⟨-, -, h0, h1, -⟩ := (Memory.inRange_iff p m).1 h
  cases i
  · exact h0
  · exact h1

theorem Memory.inRange_setFb {p : Profile} {m : Memory} (h : m.inRange p = true) (i : BufSel) {b : Store 16}
    (hb : Store.below p.fbCells b = true) : (m.setFb i b).inRange p = true := by
  obtain ⟨hcmd, hasset, h0, h1, htile⟩ := (Memory.inRange_iff p m).1 h
  refine (Memory.inRange_iff p _).2 ?_
  cases i
  · exact ⟨hcmd, hasset, hb, h1, htile⟩
  · exact ⟨hcmd, hasset, h0, hb, htile⟩

/-- A block of `TILE_BYTES` bytes at a slot of tile memory lies in tile memory (20_memory R40). -/
theorem fetchTile_inRange {s : State} (h : s.mem.inRange s.launch.prof = true) {bank slot : Nat}
    {block : List Byte} (hslot : slot < s.launch.prof.tileSlots) (hlen : block.length = s.launch.prof.tileBytes) :
    (fetchTile bank slot block s).mem.inRange s.launch.prof = true := by
  obtain ⟨hcmd, hasset, h0, h1, htile⟩ := (Memory.inRange_iff _ _).1 h
  have hend : slot * s.launch.prof.tileBytes + block.length ≤ s.launch.prof.tileSlots * s.launch.prof.tileBytes := by
    rw [hlen, ← Nat.succ_mul]
    exact Nat.mul_le_mul_right _ hslot
  exact (Memory.inRange_iff _ _).2 ⟨hcmd, hasset, h0, h1, Store.below_writeBlock htile hend⟩

/-! ## Clauses read off the invariant -/

/-- 10_state R30 (c) holds of every state: delivery is enabled exactly where the mask is clear. -/
theorem latched_masked_or_deliverable (s : State) (h : s.tickPending = true) :
    s.tickMasked = true ∨ deliveryEnabled s = true := by
  cases hm : s.tickMasked
  · exact .inr (by simp [deliveryEnabled, h, hm])
  · exact .inl rfl

section Clauses

variable {s : State}

theorem Inv.hostReq_eq_none (h : Inv s) (hp : s.phase ≠ .done) : s.hostReq = none := by
  cases hk : s.hostReq with
  | none => rfl
  | some k => exact absurd (h.hostReqIn k hk).2 hp

theorem Inv.fault_eq_none (h : Inv s) (hp : s.phase ≠ .faulted) : s.fault = none :=
  Option.not_isSome_iff_eq_none.1 fun hf => hp (h.faultPhase.2 hf)

/-! ## Operations inside one phase -/

theorem withAgenda_inv (h : Inv s) (a : List Turn) : Inv { s with agenda := a } := { h with }

theorem popTurn_inv (h : Inv s) : Inv (popTurn s) := withAgenda_inv h _

theorem advanceOff_inv (h : Inv s) {cls : OpClass}
    (hoff : s.cmdOff + (1 + operandCount cls) ≤ s.launch.prof.bankSize) : Inv (advanceOff cls s) :=
  { h with offLe := hoff }

theorem moveCursor_inv (h : Inv s) {c : Nat} (hc : c ≤ s.launch.prof.fbCells) : Inv (moveCursor c s) :=
  { h with cursorLe := hc }

theorem setPendingBorder_inv (h : Inv s) (v : Border) : Inv (setPendingBorder v s) := { h with }

theorem writeNextCell_inv (h : Inv s) {c : Nat} (hc : c < s.launch.prof.fbCells) (tw : TileWord) :
    Inv (writeNextCell c tw s) :=
  { h with
    memForm := writeNextCell_wf h.memForm c tw
    memRange := Memory.inRange_setFb h.memRange _ (below_storeCell (Memory.below_fb h.memRange _) hc tw) }

theorem fetchTile_inv (h : Inv s) {bank slot : Nat} {block : List Byte} (hslot : slot < s.launch.prof.tileSlots)
    (hlen : block.length = s.launch.prof.tileBytes) : Inv (fetchTile bank slot block s) :=
  { h with
    memForm := fetchTile_wf h.memForm bank slot block
    memRange := fetchTile_inRange h.memRange hslot hlen }

/-- The cursor a placement leaves, with the strides of the reference profiles. -/
theorem Inv.advanceBy_one_le (h : Inv s) {c : Nat} (hc : c < s.launch.prof.fbCells) :
    advanceBy s.launch.prof c 1 ≤ s.launch.prof.fbCells :=
  advance1_le_fbCells ((geometryOk_iff _).1 (geometryOk_reference h.profile)).1 hc

/-! ## The instructions -/

theorem placed_inv (h : Inv s) {cls : OpClass} {c : Nat} (hc : c < s.launch.prof.fbCells)
    (hoff : s.cmdOff + (1 + operandCount cls) ≤ s.launch.prof.bankSize) (tile : Nat) : Inv (placed cls c tile 1 s) :=
  moveCursor_inv (writeNextCell_inv (advanceOff_inv h hoff) hc _) (h.advanceBy_one_le hc)

theorem placedFetched_inv (h : Inv s) {pos tile abank aoff : Nat} {block : List Byte}
    (hslot : tileIndex s.launch.prof (tileWord tile) < s.launch.prof.tileSlots)
    (hblock : assetBlock s (s.launch.assetBankBase + abank) aoff = some block) (hpos : pos < s.launch.prof.fbCells)
    (hoff : s.cmdOff + (1 + operandCount .placeA) ≤ s.launch.prof.bankSize) :
    Inv (placedFetched pos tile abank block s) := by
  have hcursor := h.advanceBy_one_le hpos
  rw [← (strides_reference h.profile).1] at hcursor
  have hfetched := fetchTile_inv (bank := s.launch.assetBankBase + abank) (advanceOff_inv h hoff) hslot
    (assetBytes_some hblock).1
  exact moveCursor_inv (writeNextCell_inv hfetched hpos _) hcursor

theorem raiseAtInstr_inv (h : Inv s) (hp : s.phase = .decoding) (code : FaultCode) : Inv (raiseAtInstr code s) :=
  { h with
    masked := by rw [raiseAtInstr_eq, h.masked, hp]; rfl
    budgetWritten := fun hw => by rcases hw with hw | hw <;> cases hw
    budgetCovered := fun hc => by cases hc
    faultPhase := ⟨fun _ => rfl, fun _ => rfl⟩
    displayOnlyIff := by rw [raiseAtInstr_eq, h.displayOnlyIff, hp]; rfl
    signalFrame := by rw [raiseAtInstr_eq, h.signalFrame, hp]; rfl
    hostReqIn := fun k hk => by
      rw [raiseAtInstr_eq, h.hostReq_eq_none (by simp [hp])] at hk
      cases hk }

/-- EOS (42_stream_control R132). -/
theorem endStream_inv (h : Inv s) (hp : s.phase = .decoding) : Inv (enterDone (signalStreamDone s)) :=
  { h with
    masked := by simp [h.masked, hp, Phase.critical]
    budgetWritten := fun hw => by rcases hw with hw | hw <;> cases hw
    budgetCovered := fun hc => by cases hc
    faultPhase := by simp [h.fault_eq_none (by simp [hp])]
    displayOnlyIff := rfl
    signalFrame := rfl
    hostReqIn := fun k hk => ⟨(h.hostReqIn k hk).1, rfl⟩ }

/-- EOF (42_stream_control R131). -/
theorem endFrame_inv (h : Inv s) (hp : s.phase = .decoding) (k : Budget) : Inv (awaitBudget k (signalMoreFrames s)) :=
  { h with
    masked := by simp [h.masked, hp, Phase.critical]
    budgetWritten := fun _ => rfl
    budgetCovered := fun hc => by cases hc
    faultPhase := by simp [h.fault_eq_none (by simp [hp])]
    displayOnlyIff := by simp [h.displayOnlyIff, hp, Phase.afterStream]
    signalFrame := rfl
    hostReqIn := fun k hk => by simp [h.hostReq_eq_none (by simp [hp])] at hk }

/-- Every instruction whose bytes lie in the bank keeps the invariant. -/
theorem exec_inv (h : Inv s) (hp : s.phase = .decoding) {i : Instr} {t : State}
    (hoff : s.cmdOff + (1 + operandCount (classOfInstr i)) ≤ s.launch.prof.bankSize) (he : exec i s = .next t) : Inv t := by
  obtain ⟨-, hstrideB, hstrideM⟩ := strides_reference h.profile
  rcases exec_cases he with ⟨code, -, rfl⟩ | ⟨pos, tile, rfl, hpos, rfl⟩ | ⟨tile, rfl, hcursor, rfl⟩ |
    ⟨pos, tile, abank, aoff, block, rfl, -, hslot, hblock, hpos, rfl⟩ | ⟨rfl, -, rfl⟩ | ⟨rfl, rfl⟩ | ⟨rfl, rfl⟩ |
    ⟨rfl, rfl⟩ | ⟨k, rfl, rfl⟩
  · exact raiseAtInstr_inv h hp code
  · rw [hstrideB]
    exact placed_inv h hpos hoff tile
  · rw [hstrideM]
    exact placed_inv h hcursor hoff tile
  · exact placedFetched_inv h hslot hblock hpos hoff
  · exact { h with offLe := Nat.zero_le _ }
  · exact setPendingBorder_inv (advanceOff_inv h hoff) _
  · exact setPendingBorder_inv (advanceOff_inv h hoff) _
  · exact endStream_inv (advanceOff_inv h hoff) hp
  · exact endFrame_inv (advanceOff_inv h hoff) hp k

theorem stepDecode_inv (h : Inv s) (hp : s.phase = .decoding) {t : State} (hstep : stepDecode s = .next t) : Inv t := by
  rcases stepDecode_cases hstep with ⟨code, -, rfl⟩ | ⟨b0, bs, -, -, hoff, he⟩
  · exact raiseAtInstr_inv h hp code
  · refine exec_inv h hp ?_ he
    rwa [classOfInstr_decodeWindow]

/-! ## The governor and the flip -/

/-- A move of the Engine between two phases on the same side of EOF, EOS and the flip, with the mask set as the new phase
asks (10_state R19) and the budget covered where the new phase is critical (43_flip_governor R149). -/
theorem governorMove_inv (h : Inv s) {old new : Phase} {tick : Tick} (hp : s.phase = old)
    (hframe : new.betweenFrames = old.betweenFrames) (hstream : new.afterStream = old.afterStream)
    (hold : old ≠ .done ∧ old ≠ .faulted) (hnew : new ≠ .waiting ∧ new ≠ .hostWaiting ∧ new ≠ .faulted)
    (hcovered : new.critical = true → ∃ k, s.budget = some k ∧ k.toNat ≤ tick.toNat) :
    Inv { s with tick := tick, tickMasked := new.critical, phase := new } := by
  subst hp
  obtain ⟨hwait, hhostWait, hfaulted⟩ := hnew
  exact { h with
    masked := rfl
    latched := latched_masked_or_deliverable _
    budgetWritten := fun hw => by rcases hw with hw | hw; exacts [absurd hw hwait, absurd hw hhostWait]
    budgetCovered := hcovered
    faultPhase := by simp [hfaulted, h.fault_eq_none hold.2]
    displayOnlyIff := h.displayOnlyIff.trans hstream.symm
    signalFrame := by simpa only [hframe, hstream] using h.signalFrame
    hostReqIn := fun k hk => absurd (h.hostReqIn k hk).2 hold.1 }

/-- In a waiting phase the budget has been written, so the test does not fault, and masks only once the budget is covered
(43_flip_governor R143). -/
theorem Inv.waitForBudget_eq (h : Inv s) (hw : s.phase = .waiting ∨ s.phase = .hostWaiting) (critical : Phase) :
    waitForBudget critical s = s ∨ ∃ k, s.budget = some k ∧ k.toNat ≤ s.tick.toNat ∧
      waitForBudget critical s = { s with tickMasked := true, phase := critical } := by
  rcases waitForBudget_cases critical s with ⟨hb, -⟩ | hready | ⟨-, -, -, e⟩
  · simpa [hb] using h.budgetWritten hw
  · exact .inr hready
  · exact .inl e

theorem stepWait_inv (h : Inv s) (hp : s.phase = .waiting) : Inv (stepWait s) := by
  rw [stepWait]
  rcases h.waitForBudget_eq (.inl hp) .consuming with e | ⟨k, hb, hk, e⟩ <;> rw [e]
  · exact h
  · exact governorMove_inv h hp rfl rfl (by decide) (by decide) fun _ => ⟨k, hb, hk⟩

theorem stepHostWait_inv (h : Inv s) (hp : s.phase = .hostWaiting) : Inv (stepHostWait s) := by
  rw [stepHostWait]
  rcases h.waitForBudget_eq (.inr hp) .hostConsuming with e | ⟨k, hb, hk, e⟩ <;> rw [e]
  · exact h
  · exact governorMove_inv h hp rfl rfl (by decide) (by decide) fun _ => ⟨k, hb, hk⟩

/-- In a critical phase the budget has been written, so consuming it does not fault (43_flip_governor R149). -/
theorem Inv.consumeBudget_eq (h : Inv s) (hp : s.phase.critical = true) (after : Phase) :
    ∃ tick, consumeBudget after s = { s with tick := tick, tickMasked := false, phase := after } := by
  obtain ⟨k, hk, -⟩ := h.budgetCovered hp
  rcases consumeBudget_cases after s with ⟨hb, -⟩ | ⟨k, -, e⟩
  · simp [hb] at hk
  · exact ⟨_, e⟩

theorem stepConsume_inv (h : Inv s) (hp : s.phase = .consuming) : Inv (stepConsume s) := by
  obtain ⟨tick, e⟩ := h.consumeBudget_eq (by rw [hp]; rfl) .flipping
  rw [stepConsume, e]
  exact governorMove_inv h hp rfl rfl (by decide) (by decide) fun hc => by cases hc

theorem stepHostConsume_inv (h : Inv s) (hp : s.phase = .hostConsuming) : Inv (stepHostConsume s) := by
  obtain ⟨tick, e⟩ := h.consumeBudget_eq (by rw [hp]; rfl) .done
  rw [stepHostConsume, e]
  exact governorMove_inv h hp rfl rfl (by decide) (by decide) fun hc => by cases hc

/-- The Flipping step (43_flip_governor R145 to R147). -/
theorem stepFlip_inv (h : Inv s) (hp : s.phase = .flipping) : Inv (stepFlip s) :=
  { h with
    memForm := beginFrame_wf (s := flipBuffers s) h.memForm
    memRange := Memory.inRange_setFb h.memRange _ (Memory.below_fb h.memRange _)
    active := rfl
    masked := h.masked.trans (by rw [hp]; rfl)
    cursorLe := (cursorStart_reference h.profile).trans_le (Nat.zero_le _)
    budgetWritten := fun hw => by rcases hw with hw | hw <;> cases hw
    budgetCovered := fun hc => by cases hc
    faultPhase := by simp [stepFlip, h.fault_eq_none (by simp [hp])]
    displayOnlyIff := h.displayOnlyIff.trans (by rw [hp]; rfl)
    signalFrame := rfl
    hostReqIn := fun k hk => absurd (h.hostReqIn k hk).2 (by simp [hp]) }

/-- Accepting a host request (43_flip_governor R152). -/
theorem hostAccept_inv (h : Inv s) (hp : s.phase = .done) (k : Budget) :
    Inv { s with budget := some k, hostReq := none, phase := .hostWaiting } :=
  { h with
    masked := h.masked.trans (by rw [hp]; rfl)
    budgetWritten := fun _ => rfl
    budgetCovered := fun hc => by cases hc
    faultPhase := by simp [h.fault_eq_none (by simp [hp])]
    displayOnlyIff := h.displayOnlyIff.trans (by rw [hp]; rfl)
    signalFrame := h.signalFrame.trans (by rw [hp]; rfl)
    hostReqIn := fun k hk => by cases hk }

theorem engineStep_inv (h : Inv s) {t : State} (hstep : engineStep s = .next t) : Inv t := by
  rcases engineStep_cases hstep with ⟨-, rfl⟩ | ⟨hp, -, hd⟩ | ⟨hp, rfl⟩ | ⟨hp, rfl⟩ | ⟨hp, -, rfl⟩ | ⟨hp, k, -, rfl⟩ |
    ⟨hp, rfl⟩ | ⟨hp, rfl⟩
  · exact h
  · exact stepDecode_inv h hp hd
  · exact stepWait_inv h hp
  · exact stepConsume_inv h hp
  · exact stepFlip_inv h hp
  · exact hostAccept_inv h hp _
  · exact stepHostWait_inv h hp
  · exact stepHostConsume_inv h hp

/-! ## The TickSource and the Host -/

/-- Counting a tick moves `TICK` only outside the critical section, where no clause speaks of it (60_exceptions R163). -/
theorem countTick_inv (h : Inv s) (hm : s.tickMasked = false) (pending : Bool) :
    Inv { s with tick := s.tick + 1, tickPending := pending } :=
  { h with
    latched := latched_masked_or_deliverable _
    budgetCovered := fun hc => by
      have := h.masked.symm.trans hm
      simp [this] at hc }

theorem tickEvent_inv (h : Inv s) : Inv (tickEvent s) := by
  rcases tickEvent_cases s with ⟨-, e⟩ | ⟨hm, e⟩
  · rw [e]
    exact { h with latched := latched_masked_or_deliverable _ }
  · rw [e]
    exact countTick_inv h hm s.tickPending

theorem deliverTick_inv (h : Inv s) : Inv (deliverTick s) := by
  rcases deliverTick_cases s with ⟨hd, e⟩ | ⟨-, e⟩
  · rw [e]
    refine countTick_inv h ?_ false
    simp only [deliveryEnabled, Bool.and_eq_true, Bool.not_eq_true'] at hd
    exact hd.2
  · rwa [e]

/-- Placing a host request (43_flip_governor R152). -/
theorem hostRequest_inv (h : Inv s) (hp : s.phase = .done) {k : Nat} (hk : k ≤ 7) :
    Inv { s with hostReq := some (BitVec.ofNat 4 k) } :=
  { h with
    hostReqIn := fun r hr => by
      obtain rfl := Option.some.inj hr
      exact ⟨(BitVec.toNat_ofNat k 4).trans_le ((Nat.mod_le _ _).trans hk), hp⟩ }

end Clauses

/-- The invariant at reset (70_reset R180). -/
theorem resetWith_inv {l : Launch} {cmdRom assetRom tile : List Host.Cell} (href : l.prof.isReference)
    (hentry : l.cmdOffStart ≤ l.prof.bankSize) (hform : (State.resetWith l cmdRom assetRom tile).mem.wf = true)
    (hrange : (State.resetWith l cmdRom assetRom tile).mem.inRange l.prof = true) :
    Inv (State.resetWith l cmdRom assetRom tile) where
  profile := href
  entry := hentry
  memForm := hform
  memRange := hrange
  active := rfl
  masked := rfl
  latched := latched_masked_or_deliverable _
  cursorLe := (cursorStart_reference href).trans_le (Nat.zero_le _)
  offLe := hentry
  budgetWritten hw := by rcases hw with hw | hw <;> cases hw
  budgetCovered hc := by cases hc
  faultPhase := by simp [State.resetWith]
  displayOnlyIff := rfl
  signalFrame := rfl
  hostReqIn k hk := by cases hk

/-- The Host's reset, in any phase (70_reset R183). -/
theorem hostReset_inv {s : State} (h : Inv s) : Inv (hostReset s) := by
  obtain ⟨hcmd, hasset, -, -, htile⟩ := (Memory.inRange_iff _ _).1 h.memRange
  exact withAgenda_inv (resetWith_inv h.profile h.entry (hostReset_wf h.memForm)
    ((resetWith_mem_inRange_iff _ _ _ _ _).2 ⟨hcmd, hasset, htile⟩)) _

/-! ## The obligations -/

/-- Settles O46, by the agent whose turn it is. -/
theorem stepKeepsInvariant : Obligations.StepKeepsInvariant := by
  intro s t h hstep
  have hpop := popTurn_inv h
  rcases step_cases hstep with ⟨-, he⟩ | rfl | rfl | ⟨k, hp, -, hk, rfl⟩ | ⟨-, rfl⟩
  · exact engineStep_inv hpop he
  · exact tickEvent_inv hpop
  · exact deliverTick_inv hpop
  · exact hostRequest_inv hpop hp hk
  · exact hostReset_inv hpop

/-- Settles O47: both are `State.resetWith` of a launch whose contents are in form and in range. -/
theorem resetMeetsInvariant : Obligations.ResetMeetsInvariant := by
  refine ⟨resetWith_inv (.inl rfl) (Nat.zero_le _) reset_mem_wf rfl,
    fun l cmdRom assetRom tile href hentry hcSorted haSorted htSorted hcBelow haBelow htBelow => ?_⟩
  exact resetWith_inv href hentry ((resetWith_mem_wf_iff l cmdRom assetRom tile).2 ⟨hcSorted, haSorted, htSorted⟩)
    ((resetWith_mem_inRange_iff l cmdRom assetRom tile _).2 ⟨hcBelow, haBelow, htBelow⟩)

end Sys2Proof.Machine
end

section
/-! What the steps of the agents write (10_state R12, R21, R23, R25, R26): O23, O31, O51 and O53; and reading a budget
that nothing has written (10_state R34): O37. -/

namespace Sys2Proof.Machine

/-! ## The Decoding step -/

/-- The byte at the command position can be read and is of class `cls`. -/
def FetchesClass (s : State) (cls : OpClass) : Prop :=
  ∃ b0, cmdRead s s.cmdBank s.cmdOff = some b0 ∧ classOf s.launch.prof b0 = cls

/-- The Decoding step faults, or performs an instruction of the class of the byte it fetches. -/
theorem stepDecode_exec {s t : State} (h : stepDecode s = .next t) :
    (∃ code, t = raiseAtInstr code s) ∨ ∃ i, FetchesClass s (classOfInstr i) ∧ exec i s = .next t := by
  rcases stepDecode_cases h with ⟨code, -, ht⟩ | ⟨b0, bs, -, hb0, -, he⟩
  · exact .inl ⟨code, ht⟩
  · exact .inr ⟨_, ⟨b0, hb0, (classOfInstr_decodeWindow _ _ _).symm⟩, he⟩

/-- No instruction writes `CUR_SEL` or a display output, only BANK writes `CMD_BANK`, and only PLA writes tile memory. -/
theorem exec_frame {i : Instr} {s t : State} (h : exec i s = .next t) :
    (t.curSel = s.curSel ∧ t.dispActive = s.dispActive ∧ t.dispBorder = s.dispBorder) ∧
    (t.cmdBank = s.cmdBank ∨ classOfInstr i = .bank ∧ t.cmdOff = 0) ∧
    (t.mem.tile = s.mem.tile ∨ classOfInstr i = .placeA) := by
  rcases exec_cases h with ⟨code, -, rfl⟩ | ⟨pos, tile, rfl, -, rfl⟩ | ⟨tile, rfl, -, rfl⟩ |
    ⟨pos, tile, abank, aoff, block, rfl, -, -, -, -, rfl⟩ | ⟨rfl, -, rfl⟩ | ⟨rfl, rfl⟩ | ⟨rfl, rfl⟩ | ⟨rfl, rfl⟩ |
    ⟨k, rfl, rfl⟩
  · exact ⟨⟨rfl, rfl, rfl⟩, .inl rfl, .inl rfl⟩
  · exact ⟨⟨rfl, rfl, rfl⟩, .inl rfl, .inl (Memory.setFb_tile _ _ _)⟩
  · exact ⟨⟨rfl, rfl, rfl⟩, .inl rfl, .inl (Memory.setFb_tile _ _ _)⟩
  · exact ⟨⟨rfl, rfl, rfl⟩, .inl rfl, .inr rfl⟩
  · exact ⟨⟨rfl, rfl, rfl⟩, .inr ⟨rfl, rfl⟩, .inl rfl⟩
  · exact ⟨⟨rfl, rfl, rfl⟩, .inl rfl, .inl rfl⟩
  · exact ⟨⟨rfl, rfl, rfl⟩, .inl rfl, .inl rfl⟩
  · exact ⟨⟨rfl, rfl, rfl⟩, .inl rfl, .inl rfl⟩
  · exact ⟨⟨rfl, rfl, rfl⟩, .inl rfl, .inl rfl⟩

/-- The Decoding step writes as its instruction does. -/
theorem stepDecode_frame {s t : State} (h : stepDecode s = .next t) :
    (t.curSel = s.curSel ∧ t.dispActive = s.dispActive ∧ t.dispBorder = s.dispBorder) ∧
    (t.cmdBank = s.cmdBank ∨ FetchesClass s .bank ∧ t.cmdOff = 0) ∧
    (t.mem.tile = s.mem.tile ∨ FetchesClass s .placeA) := by
  rcases stepDecode_exec h with ⟨code, rfl⟩ | ⟨i, hfetch, he⟩
  · exact ⟨⟨rfl, rfl, rfl⟩, .inl rfl, .inl rfl⟩
  · obtain ⟨hdisplay, hbank, htile⟩ := exec_frame he
    exact ⟨hdisplay, hbank.imp_right fun ⟨hi, hoff⟩ => ⟨hi ▸ hfetch, hoff⟩,
      htile.imp_right fun hi : classOfInstr i = .placeA => hi ▸ hfetch⟩

/-! ## The other steps -/

/-- `t` differs from `s` at most in `PHASE`, the timing registers, `FAULT`, `HOST_REQ` and the agenda. -/
def TimingOnly (s t : State) : Prop :=
  t = { s with
    phase := t.phase, budget := t.budget, tick := t.tick, tickMasked := t.tickMasked, tickPending := t.tickPending,
    fault := t.fault, hostReq := t.hostReq, agenda := t.agenda }

section TimingOnly

variable {s t : State} (h : TimingOnly s t)
include h

theorem TimingOnly.display : t.curSel = s.curSel ∧ t.dispActive = s.dispActive ∧ t.dispBorder = s.dispBorder :=
  ⟨(congrArg State.curSel h :), (congrArg State.dispActive h :), (congrArg State.dispBorder h :)⟩

theorem TimingOnly.displayOnly : t.displayOnly = s.displayOnly := (congrArg State.displayOnly h :)

theorem TimingOnly.mem : t.mem = s.mem := (congrArg State.mem h :)

theorem TimingOnly.position : t.cmdBank = s.cmdBank ∧ t.cmdOff = s.cmdOff :=
  ⟨(congrArg State.cmdBank h :), (congrArg State.cmdOff h :)⟩

end TimingOnly

theorem waitForBudget_timingOnly (critical : Phase) (s : State) : TimingOnly s (waitForBudget critical s) := by
  rcases waitForBudget_cases critical s with ⟨-, e⟩ | ⟨k, -, -, e⟩ | ⟨k, -, -, e⟩ <;> rw [e] <;> rfl

theorem consumeBudget_timingOnly (after : Phase) (s : State) : TimingOnly s (consumeBudget after s) := by
  rcases consumeBudget_cases after s with ⟨-, e⟩ | ⟨k, -, e⟩ <;> rw [e] <;> rfl

theorem tickEvent_timingOnly (s : State) : TimingOnly s (tickEvent s) := by
  rcases tickEvent_cases s with ⟨-, e⟩ | ⟨-, e⟩ <;> rw [e] <;> rfl

theorem deliverTick_timingOnly (s : State) : TimingOnly s (deliverTick s) := by
  rcases deliverTick_cases s with ⟨-, e⟩ | ⟨-, e⟩ <;> rw [e] <;> rfl

/-- Outside Decoding and Flipping the Engine writes timing registers alone; in those it moves only while `DISPLAY_ONLY`
is clear (10_state R26). -/
theorem engineStep_writes {s t : State} (h : engineStep s = .next t) :
    (s.phase = .decoding ∧ s.displayOnly = false ∧ stepDecode s = .next t) ∨
    (s.phase = .flipping ∧ s.displayOnly = false ∧ t = stepFlip s) ∨ TimingOnly s t := by
  rcases engineStep_cases h with ⟨-, rfl⟩ | hdecode | ⟨-, rfl⟩ | ⟨-, rfl⟩ | hflip | ⟨-, k, -, rfl⟩ | ⟨-, rfl⟩ | ⟨-, rfl⟩
  · exact .inr (.inr rfl)
  · exact .inl hdecode
  · exact .inr (.inr (waitForBudget_timingOnly _ _))
  · exact .inr (.inr (consumeBudget_timingOnly _ _))
  · exact .inr (.inl hflip)
  · exact .inr (.inr rfl)
  · exact .inr (.inr (waitForBudget_timingOnly _ _))
  · exact .inr (.inr (consumeBudget_timingOnly _ _))

/-- The only steps that write more than timing registers are the Decoding step, the Flipping step and reset. -/
theorem step_writes {s t : State} (h : step s = .next t) :
    (EngineTurn s ∧ s.phase = .decoding ∧ s.displayOnly = false ∧ stepDecode (popTurn s) = .next t) ∨
    (s.phase = .flipping ∧ s.displayOnly = false ∧ t = stepFlip (popTurn s)) ∨
    ((∃ rest, s.agenda = .hostReset :: rest) ∧ t = hostReset (popTurn s)) ∨ TimingOnly s t := by
  rcases step_cases h with ⟨hturn, he⟩ | rfl | rfl | ⟨k, -, -, -, rfl⟩ | hreset
  · rcases engineStep_writes he with hdecode | hflip | htiming
    · exact .inl ⟨hturn, hdecode⟩
    · exact .inr (.inl hflip)
    · exact .inr (.inr (.inr htiming))
  · exact .inr (.inr (.inr (tickEvent_timingOnly (popTurn s))))
  · exact .inr (.inr (.inr (deliverTick_timingOnly (popTurn s))))
  · exact .inr (.inr (.inr rfl))
  · exact .inr (.inr (.inl hreset))

/-- The same with reset left out. -/
theorem step_writes_of_notReset {s t : State} (hr : NotReset s) (h : step s = .next t) :
    (s.phase = .decoding ∧ s.displayOnly = false ∧ stepDecode (popTurn s) = .next t) ∨
    (s.phase = .flipping ∧ s.displayOnly = false ∧ t = stepFlip (popTurn s)) ∨ TimingOnly s t := by
  rcases step_writes h with ⟨-, hdecode⟩ | hflip | ⟨⟨rest, ha⟩, -⟩ | htiming
  · exact .inl hdecode
  · exact .inr (.inl hflip)
  · exact absurd ha (hr rest)
  · exact .inr (.inr htiming)

/-! ## The obligations on what a step writes -/

/-- Settles O23: the flip's clone writes a frame buffer, and reset keeps tile memory. -/
theorem onlyPlaWritesTiles : Obligations.OnlyPlaWritesTiles := by
  intro s t hstep hne
  rcases step_writes hstep with ⟨hturn, hp, -, hdecode⟩ | ⟨-, -, rfl⟩ | ⟨-, rfl⟩ | htiming
  · obtain ⟨-, -, htile⟩ := stepDecode_frame hdecode
    exact ⟨hturn, hp, htile.resolve_left hne⟩
  · exact absurd (Memory.setFb_tile _ _ _) hne
  · exact absurd rfl hne
  · exact absurd (congrArg Memory.tile htiming.mem) hne

/-- Settles O31: in Decoding by the frame of the instructions, and no other step moves the command position. -/
theorem onlyBankSwitchesBank : Obligations.OnlyBankSwitchesBank := by
  intro s t hr hstep hne
  rcases step_writes_of_notReset hr hstep with ⟨hp, -, hdecode⟩ | ⟨-, -, rfl⟩ | htiming
  · obtain ⟨-, hbank, -⟩ := stepDecode_frame hdecode
    obtain ⟨hfetch, hoff⟩ := hbank.resolve_left hne
    exact ⟨hp, hoff, hfetch⟩
  · exact absurd rfl hne
  · exact absurd htiming.position.1 hne

/-- Settles O51: in Decoding by the frame of the instructions. -/
theorem onlyFlipMovesDisplay : Obligations.OnlyFlipMovesDisplay := by
  intro s t hr hstep hnotFlip
  rcases step_writes_of_notReset hr hstep with ⟨-, -, hdecode⟩ | ⟨hp, -⟩ | htiming
  · exact (stepDecode_frame hdecode).1
  · exact absurd hp hnotFlip
  · exact htiming.display

/-- Settles O53: with `DISPLAY_ONLY` set the Engine neither decodes nor flips, and no other step but reset writes more
than timing registers. -/
theorem displayOnlyStopsUpdates : Obligations.DisplayOnlyStopsUpdates := by
  intro s t hr hd hstep
  rcases step_writes_of_notReset hr hstep with ⟨-, hclear, -⟩ | ⟨-, hclear, -⟩ | htiming
  · simp [hd] at hclear
  · simp [hd] at hclear
  · obtain ⟨hsel, hactive, hborder⟩ := htiming.display
    exact ⟨htiming.displayOnly.trans hd, htiming.mem, hsel, hactive, hborder, htiming.position⟩

/-! ## Reading a budget that nothing has written -/

theorem waitForBudget_unwritten {s : State} (h : s.budget = none) (critical : Phase) :
    waitForBudget critical s = raiseFault .unwritten none s := by
  simp only [waitForBudget, h]

theorem consumeBudget_unwritten {s : State} (h : s.budget = none) (after : Phase) :
    consumeBudget after s = raiseFault .unwritten none s := by
  simp only [consumeBudget, h]

/-- A hold is a Waiting step that leaves the state as it is (43_flip_governor R142). -/
theorem waitForBudget_hold {s : State} (critical : Phase) (h : s.budget.all (waitReady s.tick) = false) :
    waitForBudget critical s = s := by
  cases hb : s.budget with
  | none => simp [hb] at h
  | some k =>
    have hk : waitReady s.tick k = false := by simpa [hb] using h
    simp [waitForBudget, hb, hk]

theorem engineStep_waiting {s : State} (hp : s.phase = .waiting) : engineStep s = .next (stepWait s) := by
  simp only [engineStep, engineEnabled, hp]
  split
  · rfl
  · rw [stepWait, waitForBudget_hold _ (Bool.eq_false_iff.2 ‹_›)]

theorem engineStep_hostWaiting {s : State} (hp : s.phase = .hostWaiting) : engineStep s = .next (stepHostWait s) := by
  simp only [engineStep, engineEnabled, hp]
  split
  · rfl
  · rw [stepHostWait, waitForBudget_hold _ (Bool.eq_false_iff.2 ‹_›)]

theorem engineStep_consuming {s : State} (hp : s.phase = .consuming) : engineStep s = .next (stepConsume s) := by
  simp only [engineStep, engineEnabled, hp, if_true]

theorem engineStep_hostConsuming {s : State} (hp : s.phase = .hostConsuming) :
    engineStep s = .next (stepHostConsume s) := by
  simp only [engineStep, engineEnabled, hp, if_true]

/-- The Engine's step in a phase that reads `BUDGET`, where it is `none` (10_state R34). -/
theorem engineStep_unwritten {s : State} (hb : s.budget = none)
    (hp : s.phase = .waiting ∨ s.phase = .consuming ∨ s.phase = .hostWaiting ∨ s.phase = .hostConsuming) :
    engineStep s = .next (raiseFault .unwritten none s) := by
  rcases hp with hp | hp | hp | hp
  · rw [engineStep_waiting hp, stepWait, waitForBudget_unwritten hb]
  · rw [engineStep_consuming hp, stepConsume, consumeBudget_unwritten hb]
  · rw [engineStep_hostWaiting hp, stepHostWait, waitForBudget_unwritten hb]
  · rw [engineStep_hostConsuming hp, stepHostConsume, consumeBudget_unwritten hb]

/-- Settles O37: the Engine's turn is its step after the turn is taken off the agenda. -/
theorem unwrittenBudgetFaults : Obligations.UnwrittenBudgetFaults := by
  intro s hturn hb hp
  rw [step_of_engineTurn hturn]
  exact engineStep_unwritten (s := popTurn s) hb hp

end Sys2Proof.Machine
end

section
/-! What a step writes to memory: it keeps the canonical form (O48), the ROMs (O49) and the current buffer (O50, 20_memory
R50); the bounds of the address spaces (O45); and the bytes of a cell (O54). -/

namespace Sys2Proof.Machine

/-! ## What a step writes to memory -/

/-- What an instruction can make of the memory of `s`: nothing is written, or one cell of the next buffer, or PLA's tile and
then the cell (41_placement R100, R107). -/
def InstrMemory (s : State) (m : Memory) : Prop :=
  m = s.mem ∨ (∃ c tw, m = (writeNextCell c tw s).mem) ∨
    ∃ c tw bank slot block, m = (writeNextCell c tw (fetchTile bank slot block s)).mem

/-- An instruction writes memory as `InstrMemory` says, and the launch parameters are constant (10_state R10). -/
theorem exec_mem_launch {i : Instr} {s t : State} (h : exec i s = .next t) : InstrMemory s t.mem ∧ t.launch = s.launch := by
  rcases exec_cases h with ⟨code, -, rfl⟩ | ⟨pos, tile, -, -, rfl⟩ | ⟨tile, -, -, rfl⟩ |
    ⟨pos, tile, abank, aoff, block, -, -, -, -, -, rfl⟩ | ⟨-, -, rfl⟩ | ⟨-, rfl⟩ | ⟨-, rfl⟩ | ⟨-, rfl⟩ | ⟨k, -, rfl⟩
  · exact ⟨.inl rfl, rfl⟩
  · exact ⟨.inr (.inl ⟨pos, tileWord tile, rfl⟩), rfl⟩
  · exact ⟨.inr (.inl ⟨s.cursor, tileWord tile, rfl⟩), rfl⟩
  · exact ⟨.inr (.inr ⟨pos, tileWord tile, s.launch.assetBankBase + abank, _, block, rfl⟩), rfl⟩
  · exact ⟨.inl rfl, rfl⟩
  · exact ⟨.inl rfl, rfl⟩
  · exact ⟨.inl rfl, rfl⟩
  · exact ⟨.inl rfl, rfl⟩
  · exact ⟨.inl rfl, rfl⟩

/-- The Decoding step writes to memory as its instruction does; a fault writes nothing there (60_exceptions R160). -/
theorem stepDecode_mem_launch {s t : State} (h : stepDecode s = .next t) : InstrMemory s t.mem ∧ t.launch = s.launch := by
  rcases stepDecode_exec h with ⟨code, rfl⟩ | ⟨i, -, he⟩
  · exact ⟨.inl rfl, rfl⟩
  · exact exec_mem_launch he

theorem TimingOnly.launch {s t : State} (h : TimingOnly s t) : t.launch = s.launch := (congrArg State.launch h :)

/-! ## The canonical form -/

theorem InstrMemory.wf {s : State} {m : Memory} (h : InstrMemory s m) (hform : s.mem.wf = true) : m.wf = true := by
  rcases h with rfl | ⟨c, tw, rfl⟩ | ⟨c, tw, bank, slot, block, rfl⟩
  · exact hform
  · exact writeNextCell_wf hform c tw
  · exact writeNextCell_wf (fetchTile_wf hform bank slot block) c tw

/-- Settles O48, by the steps that write memory. -/
theorem stepKeepsMemoryForm : Obligations.StepKeepsMemoryForm := by
  intro s t hform hstep
  rcases step_writes hstep with ⟨-, -, -, hdecode⟩ | ⟨-, -, rfl⟩ | ⟨-, rfl⟩ | htiming
  · obtain ⟨hmem, -⟩ := stepDecode_mem_launch hdecode
    exact hmem.wf hform
  · exact beginFrame_wf (s := flipBuffers (popTurn s)) hform
  · exact hostReset_wf (s := popTurn s) hform
  · rwa [htiming.mem]

/-! ## The ROMs -/

/-- A cell write and a tile fetch leave the ROMs alone (20_memory R55). -/
theorem InstrMemory.roms {s : State} {m : Memory} (h : InstrMemory s m) :
    m.cmdRom = s.mem.cmdRom ∧ m.assetRom = s.mem.assetRom := by
  rcases h with rfl | ⟨c, tw, rfl⟩ | ⟨c, tw, bank, slot, block, rfl⟩
  · exact ⟨rfl, rfl⟩
  · exact ⟨Memory.setFb_cmdRom _ _ _, Memory.setFb_assetRom _ _ _⟩
  · exact ⟨Memory.setFb_cmdRom _ _ _, Memory.setFb_assetRom _ _ _⟩

/-- Both ROMs and the launch parameters are constant (10_state R10, 20_memory R55). -/
theorem step_roms {s t : State} (h : step s = .next t) :
    t.mem.cmdRom = s.mem.cmdRom ∧ t.mem.assetRom = s.mem.assetRom ∧ t.launch = s.launch := by
  rcases step_writes h with ⟨-, -, -, hdecode⟩ | ⟨-, -, rfl⟩ | ⟨-, rfl⟩ | htiming
  · obtain ⟨hmem, hlaunch⟩ := stepDecode_mem_launch hdecode
    obtain ⟨hcmd, hasset⟩ := hmem.roms
    exact ⟨hcmd, hasset, hlaunch⟩
  · exact ⟨Memory.setFb_cmdRom _ _ _, Memory.setFb_assetRom _ _ _, rfl⟩
  · exact ⟨rfl, rfl, rfl⟩
  · exact ⟨congrArg Memory.cmdRom htiming.mem, congrArg Memory.assetRom htiming.mem, htiming.launch⟩

/-- Settles O49: a read depends on its ROM and the launch parameters alone. -/
theorem romsNeverWritten : Obligations.RomsNeverWritten := by
  intro s t hstep
  obtain ⟨hcmd, hasset, hlaunch⟩ := step_roms hstep
  exact ⟨hcmd, hasset, hlaunch, cmdRead_congr hcmd hlaunch, assetRead_congr hasset hlaunch⟩

/-! ## The current buffer -/

/-- A cell write goes to the next buffer, so to no cell of the current one (10_state R21). -/
theorem cellAt_writeNextCell_curSel (c : Nat) (tw : TileWord) (s : State) (d : Nat) :
    cellAt (writeNextCell c tw s) s.curSel d = cellAt s s.curSel d := by
  rw [cellAt_writeNextCell, if_neg fun hsel => BufSel.other_ne s.curSel hsel.1.symm]

theorem InstrMemory.keeps_current {s t : State} (h : InstrMemory s t.mem) (c : Nat) :
    cellAt t s.curSel c = cellAt s s.curSel c := by
  rcases h with e | ⟨d, tw, e⟩ | ⟨d, tw, bank, slot, block, e⟩ <;> rw [cellAt, e]
  · rfl
  · exact cellAt_writeNextCell_curSel d tw s c
  · exact cellAt_writeNextCell_curSel d tw (fetchTile bank slot block s) c

/-- The flip makes the next buffer current and clones it into the other, which it does not write (43_flip_governor R146,
R147). -/
theorem stepFlip_keeps_current (s : State) (c : Nat) :
    cellAt (stepFlip s) (stepFlip s).curSel c = cellAt s (stepFlip s).curSel c := by
  have hnext : (flipBuffers s).curSel ≠ nextSel (flipBuffers s) := (BufSel.other_ne _).symm
  exact congrArg (readCell · c) (Memory.fb_setFb_ne s.mem hnext _)

/-- Settles O50: a placement writes the buffer that stays next, and the flip the one that becomes next. -/
theorem currentBufferNeverWritten : Obligations.CurrentBufferNeverWritten := by
  intro s t hr hstep c
  rcases step_writes_of_notReset hr hstep with ⟨-, -, hdecode⟩ | ⟨-, -, rfl⟩ | htiming
  · obtain ⟨⟨hsel, -⟩, -⟩ := stepDecode_frame hdecode
    obtain ⟨hmem, -⟩ := stepDecode_mem_launch hdecode
    rw [hsel]
    exact hmem.keeps_current c
  · exact stepFlip_keeps_current (popTurn s) c
  · rw [cellAt, htiming.mem, cellAt]

/-! ## The address spaces -/

theorem Store.lt_of_below {w n a : Nat} {m : Store w} {v : BitVec w} (h : Store.below n m = true) (hmem : (a, v) ∈ m) :
    a < n :=
  of_decide_eq_true (List.all_eq_true.1 h _ hmem)

/-- The banks of a ROM are the 8-bit numbers (20_memory R40; log 17). -/
theorem le_topBank_iff (bank : Nat) : bank ≤ Config.topBank ↔ bank < 256 := Nat.lt_succ_iff.symm

theorem romRead_outside (p : Profile) (rom : List Host.Cell) {bank off : Nat} (h : 256 ≤ bank ∨ p.bankSize ≤ off) :
    romRead p rom bank off = none := by
  rcases romRead_cases p rom bank off with ⟨hbank, hoff, -⟩ | ⟨-, e⟩
  · rw [le_topBank_iff] at hbank
    omega
  · exact e

theorem romRead_inside (p : Profile) (rom : List Host.Cell) {bank off : Nat} (hbank : bank < 256) (hoff : off < p.bankSize) :
    romRead p rom bank off = Store.read rom (linearOffset p bank off) :=
  if_pos ⟨(le_topBank_iff bank).2 hbank, hoff⟩

theorem tileByte_outside {s : State} {slot j : Nat}
    (h : s.launch.prof.tileSlots ≤ slot ∨ s.launch.prof.tileBytes ≤ j) : tileByte s slot j = none := by
  rcases tileByte_cases s slot j with ⟨hslot, hj, -⟩ | ⟨-, e⟩
  · omega
  · exact e

theorem displayedCell_outside {s : State} {c : Nat} (h : s.launch.prof.fbCells ≤ c) : displayedCell s c = none :=
  if_neg (Nat.not_lt.2 h)

theorem displayedTileByte_outside {s : State} {c : Nat} (h : s.launch.prof.fbCells ≤ c) (j : Nat) :
    displayedTileByte s c j = none := by
  rw [displayedTileByte, displayedCell_outside h]

/-- Contents outside their address space are refused at launch (20_memory R40; log 15). -/
theorem boot_refused_of_not_inRange {l : Launch} {cmdRom assetRom tile : List Host.Cell}
    (h : ¬ (State.resetWith l cmdRom assetRom tile).mem.inRange l.prof = true) :
    boot l cmdRom assetRom tile = .refused .launchOutsideSpec := by
  rcases boot_cases l cmdRom assetRom tile with ⟨hok, -⟩ | ⟨-, hrefused⟩
  · obtain ⟨-, -, -, hrange⟩ := (launchOk_iff l cmdRom assetRom tile).1 hok
    exact absurd hrange h
  · exact hrefused

theorem boot_refused_of_listed_outside {l : Launch} {cmdRom assetRom tile : List Host.Cell} {a : Nat} {v : Byte}
    (h : ((a, v) ∈ cmdRom ∨ (a, v) ∈ assetRom) ∧ 256 * l.prof.bankSize ≤ a ∨
      (a, v) ∈ tile ∧ l.prof.tileSlots * l.prof.tileBytes ≤ a) :
    boot l cmdRom assetRom tile = .refused .launchOutsideSpec := by
  refine boot_refused_of_not_inRange fun hrange => ?_
  obtain ⟨hcmd, hasset, htile⟩ := (resetWith_mem_inRange_iff l cmdRom assetRom tile l.prof).1 hrange
  rcases h with ⟨hlisted | hlisted, ha⟩ | ⟨hlisted, ha⟩
  · exact Nat.not_le.2 (Store.lt_of_below hcmd hlisted) ha
  · exact Nat.not_le.2 (Store.lt_of_below hasset hlisted) ha
  · exact Nat.not_le.2 (Store.lt_of_below htile hlisted) ha

/-- Settles O45, space by space: outside the bounds, inside them, and at launch. -/
theorem addressSpaceBounds : Obligations.AddressSpaceBounds :=
  ⟨fun _ _ _ hoff => romRead_outside _ _ (.inr hoff),
    fun _ _ _ hout => romRead_outside _ _ hout,
    fun _ _ _ hout => tileByte_outside hout,
    fun _ _ j hc => ⟨displayedCell_outside hc, displayedTileByte_outside hc j⟩,
    fun s bank _ hoff => ⟨cmdRead_eq s bank hoff, romRead_inside _ _ bank.isLt hoff⟩,
    fun _ _ _ hslot hj => if_pos ⟨hslot, hj⟩,
    fun _ _ _ _ _ _ hlisted => boot_refused_of_listed_outside hlisted⟩

/-! ## The bytes of a cell -/

/-- Byte `b` of a cell in platform memory (20_memory R45). -/
theorem platformByte_cell (s : State) (i : BufSel) {c b : Nat} (hc : c < s.launch.prof.fbCells) (hb : b < 2) :
    platformByte s i (bufferBase s i + (2 * c + b)) = some (cellByte (cellAt s i c) (b == 1)) := by
  have hcell : (2 * c + b) / 2 = c := by omega
  have hbyte : (2 * c + b) % 2 = b := by omega
  rw [platformByte, if_pos (by omega), Nat.add_sub_cancel_left, hcell, hbyte]

/-- Settles O54: byte 0 of the cell, and byte 1. -/
theorem cellBytesLittleEndian : Obligations.CellBytesLittleEndian :=
  fun s i _ hc => ⟨platformByte_cell s i (b := 0) hc (by decide), platformByte_cell s i (b := 1) hc (by decide)⟩

end Sys2Proof.Machine
end

section
/-! The encoding: what the decoder reads from any bytes (30_encoding R60, R61, R65, R68), the fixed words of
95_test_vectors section 2.1, and what the launch check of 30_encoding R64 guarantees; O3, O5, O10 and O44. -/

namespace Sys2Proof

/-! ## What the decoder reads -/

/-- A byte list decodes exactly when it is an opcode byte, the operand bytes of that byte's class, and what is left
over (30_encoding R60, R62). -/
theorem decode_eq_ok_iff {p : Profile} {W rest : List Byte} {i : Instr} : decode p W = .ok (i, rest) ↔
    ∃ b0 operands, W = b0 :: (operands ++ rest) ∧ operands.length = operandCount (classOf p b0) ∧
      i = decodeWindow p (classOf p b0) (b0 :: operands) := by
  constructor
  · intro h
    cases W with
    | nil => cases h
    | cons b0 tail =>
      simp only [decode] at h
      split at h
      · cases h
      · next hlen =>
        cases h
        exact ⟨b0, _, by rw [List.take_append_drop], List.length_take_of_le (Nat.not_lt.1 hlen), rfl⟩
  · rintro ⟨b0, operands, rfl, hlen, rfl⟩
    simp [decode, ← hlen]

/-- A field value fits its layout's width: each slice adds a digit below the weight of the slice before it. -/
theorem extract_lt (W : List Byte) (f : FieldLayout) : extract W f < 2 ^ fieldWidth f := by
  induction f with
  | nil => exact Nat.one_pos
  | cons sl rest ih =>
    have hslice : sliceBits (windowByte W sl.byte) sl < 2 ^ sliceWidth sl := Nat.mod_lt _ (Nat.two_pow_pos _)
    calc sliceBits (windowByte W sl.byte) sl * 2 ^ fieldWidth rest + extract W rest
        < (sliceBits (windowByte W sl.byte) sl + 1) * 2 ^ fieldWidth rest := by rw [Nat.succ_mul]; omega
      _ ≤ 2 ^ sliceWidth sl * 2 ^ fieldWidth rest := Nat.mul_le_mul_right _ hslice
      _ = 2 ^ (sliceWidth sl + fieldWidth rest) := (Nat.pow_add ..).symm

/-- A window read in its own opcode byte's class gives a well-formed instruction, under every profile. -/
theorem decodeWindow_wellFormed {p : Profile} {cls : OpClass} {W : List Byte} (h : classOf p (windowByte W 0) = cls) :
    WellFormed p (decodeWindow p cls W) = true := by
  cases cls with
  | placeA | placeB | put => simp [decodeWindow, WellFormed, extract_lt]
  | reservedC0 | reservedE0 | reservedF4 => simp [decodeWindow, WellFormed, h]
  | bank | borderA | borderB | endStream | endFrame => rfl

/-- Settles O3; that the profile is a reference one is not needed. -/
theorem decodedIsWellFormed : Obligations.DecodedIsWellFormed := by
  intro p _ W rest i h
  obtain ⟨b0, operands, -, -, rfl⟩ := decode_eq_ok_iff.1 h
  exact decodeWindow_wellFormed rfl

/-! ## The length -/

/-- The operand count by the range of the opcode byte (30_encoding R61, table E-1), byte by byte. -/
theorem operandCount_reference {p : Profile} (h : p.isReference) (b0 : Byte) : operandCount (classOf p b0) =
    if b0.toNat < 0x40 then 4 else if b0.toNat < 0x80 then 2 else if b0.toNat < 0xC0 then 1 else 0 := by
  rw [classOf, Machine.opmap_reference h]
  revert b0
  decide +kernel

/-- Settles O5: the operand bytes are those `decode_eq_ok_iff` names. -/
theorem lengthByOpcode : Obligations.LengthByOpcode := by
  intro p b0 tail rest i href h
  obtain ⟨_, operands, hW, hlen, -⟩ := decode_eq_ok_iff.1 h
  cases hW
  exact ⟨operands, rfl, hlen.trans (operandCount_reference href b0)⟩

/-! ## Fixed words -/

/-- Settles O10, word by word: the model's decoder run on each window. -/
theorem goldenWords : Obligations.GoldenWords :=
  ⟨by decide, by decide, by decide, by decide, by decide, by decide, by decide, by decide⟩

end Sys2Proof

namespace Sys2Proof.Machine

/-! ## What the launch check of 30_encoding R64 guarantees -/

theorem mem_allBytes (b : Byte) : b ∈ allBytes :=
  List.mem_map.2 ⟨b.toNat, List.mem_range.2 b.isLt, by simp⟩

theorem mem_putCodes {p : Profile} {b : Byte} : b ∈ putCodes p ↔ classOf p b = .put := by
  simp [putCodes, mem_allBytes]

/-- A count of 1 over all bytes means one byte and no other. -/
theorem existsUnique_of_countBytes {f : Byte → Bool} (h : countBytes f = 1) : ∃! b, f b = true := by
  rw [countBytes, List.countP_eq_length_filter, List.length_eq_one_iff] at h
  obtain ⟨b, hb⟩ := h
  have mem_iff (c : Byte) : f c = true ↔ c = b := by
    rw [← List.mem_singleton (a := c) (b := b), ← hb, List.mem_filter, and_iff_right (mem_allBytes c)]
  exact ⟨b, (mem_iff b).2 rfl, fun c hc => (mem_iff c).1 hc⟩

/-- 30_encoding R64(b). -/
theorem eofCode_existsUnique {p : Profile} (h : eofCodesOk p = true) {k : Nat} (hk : k < 8) :
    ∃! b0 : Byte, classOf p b0 = .endFrame ∧ b0.toNat % 8 = k := by
  simp only [eofCodesOk, Bool.and_eq_true, List.all_eq_true, List.mem_range, beq_iff_eq] at h
  simpa using existsUnique_of_countBytes (h.2 k hk)

/-- 30_encoding R64(d). -/
theorem fixedCode_existsUnique {p : Profile} (h : fixedCodesOk p = true) {c : OpClass}
    (hc : c ∈ [OpClass.bank, .borderA, .borderB, .endStream]) : ∃! b0 : Byte, classOf p b0 = c := by
  simp only [fixedCodesOk, List.all_eq_true, beq_iff_eq] at h
  simpa using existsUnique_of_countBytes (h c hc)

/-- The two pairs of windows by which `putTileOk` tells that PUT's tile field depends on both bytes. -/
theorem putTileOk_iff (p : Profile) : putTileOk p = true ↔
    (∃ b c, classOf p b = .put ∧ classOf p c = .put ∧ b.toNat / 16 = c.toNat / 16 ∧ putTile p b 0 ≠ putTile p c 0) ∧
      ∃ b, classOf p b = .put ∧ putTile p b 0 ≠ putTile p b 255 := by
  simp [putTileOk, mem_putCodes]

theorem putTileOk_of_layoutOk {p : Profile} (h : layoutOk p = true) : putTileOk p = true := by
  simp only [layoutOk, Bool.and_eq_true] at h
  exact h.2

/-- Settles O44: a profile that passes the check has each code once (R64(b), (d)), and its PUT tile field tells two
PUT opcodes and two operand bytes apart (R64(c)). -/
theorem launchChecksEncoding : Obligations.LaunchChecksEncoding := by
  intro l cmdRom assetRom tile p hbroken
  refine boot_refused_of_not_profileOk (fun hprof => ?_) cmdRom assetRom tile
  obtain ⟨-, -, heof, hfixed, hlayout⟩ := (profileOk_iff p).1 hprof
  obtain ⟨⟨b, c, hb, hc, -, hopcode⟩, b', hb', hoperand⟩ := (putTileOk_iff p).1 (putTileOk_of_layoutOk hlayout)
  rcases hbroken with ⟨k, hk, hnone⟩ | hsame | hsame | ⟨cls, hcls, hnone⟩
  · exact hnone (eofCode_existsUnique heof hk)
  · exact hopcode (hsame b c hb hc 0)
  · exact hoperand (hsame b' hb' 0 255)
  · exact hnone (fixedCode_existsUnique hfixed hcls)

end Sys2Proof.Machine
end

section
/-! The codec (40_codec): class selection, the fields of the reference layouts, and the round trips between windows and
instructions; O1, O2, O4, O6, O7, O8 and O9. -/

namespace Sys2Proof

open Machine

/-! ## Class selection (R82) -/

/-- Where one row alone matches a byte, the first matching row is that row. -/
theorem classOf_of_row {p : Profile} {r : OpRow} {b0 : Byte} (hrows : rowsPartition p = true) (hr : r ∈ p.opmap)
    (hmatch : b0 &&& r.mask = r.pattern) : classOf p b0 = r.cls := by
  have hone := List.all_eq_true.1 hrows b0 (mem_allBytes b0)
  rw [beq_iff_eq, List.countP_eq_length_filter, List.length_eq_one_iff] at hone
  obtain ⟨r', hfilter⟩ := hone
  have hmem : r ∈ p.opmap.filter (fun r => b0 &&& r.mask == r.pattern) := List.mem_filter.2 ⟨hr, beq_iff_eq.2 hmatch⟩
  rw [hfilter, List.mem_singleton] at hmem
  rw [classOf, ← List.head?_filter, hfilter, hmem, List.head?_cons]

/-- Settles O4: the reference map's chain of tests is compared with table E-1 byte by byte. -/
theorem classSelection : Obligations.ClassSelection := by
  refine ⟨fun p r b0 => classOf_of_row, fun p b0 href => ?_⟩
  rw [classOf, opmap_reference href]
  revert b0
  decide +kernel

/-- The bytes of the classes that have operand bits, under the reference map (30_encoding table E-1). -/
theorem classOf_reference_iff {p : Profile} (h : p.isReference) (b0 : Byte) :
    (classOf p b0 = .placeA ↔ b0.toNat < 0x40) ∧ (classOf p b0 = .placeB ↔ 0x40 ≤ b0.toNat ∧ b0.toNat < 0x80) ∧
      (classOf p b0 = .put ↔ 0x80 ≤ b0.toNat ∧ b0.toNat < 0xC0) ∧ (classOf p b0 = .endFrame ↔ 0xF8 ≤ b0.toNat) := by
  rw [classOf, opmap_reference h]
  revert b0
  decide +kernel

/-- Where a class has an opcode at all, `opcodePattern` is one. -/
theorem classOf_opcodePattern_of_exists {p : Profile} {cls : OpClass} (h : ∃ b, classOf p b = cls) :
    classOf p (opcodePattern p cls) = cls := by
  obtain ⟨b, hb⟩ := h
  cases hfind : allBytes.find? (fun b => classOf p b == cls) with
  | none => exact absurd (beq_iff_eq.2 hb) (List.find?_eq_none.1 hfind b (mem_allBytes b))
  | some c => exact classOf_opcodePattern hfind

/-! ## The bytes of a window -/

theorem windowByte_zero (b : Byte) (W : List Byte) : windowByte (b :: W) 0 = b := rfl

theorem windowByte_succ (b : Byte) (W : List Byte) (k : Nat) : windowByte (b :: W) (k + 1) = windowByte W k :=
  List.getD_cons_succ

theorem addToByte_zero (b : Byte) (W : List Byte) (lo v : Nat) :
    addToByte (b :: W) 0 lo v = (b + BitVec.ofNat 8 (v * 2 ^ lo)) :: W := rfl

theorem addToByte_succ (b : Byte) (W : List Byte) (k lo v : Nat) :
    addToByte (b :: W) (k + 1) lo v = b :: addToByte W k lo v := by
  rw [addToByte, windowByte_succ, List.set_cons_succ, addToByte]

/-- Windows of one length that hold the same bytes are equal. -/
theorem window_ext {V V' : List Byte} (hlen : V.length = V'.length)
    (hbyte : ∀ k < V.length, windowByte V k = windowByte V' k) : V = V' := by
  refine List.ext_getElem hlen fun k hk hk' => ?_
  simpa [windowByte, hk, hk'] using hbyte k hk

/-! ## The fields of a window (R83 to R86) -/

/-- R83: `b0[5:0] ++ b1[7:4]`. -/
def posField (W : List Byte) : Nat := (windowByte W 0).toNat % 64 * 16 + (windowByte W 1).toNat / 16

/-- R84: `b1[3:0] ++ b2[7:0]`. -/
def tileField (W : List Byte) : Nat := (windowByte W 1).toNat % 16 * 256 + (windowByte W 2).toNat

/-- R86: `u = b3 ++ b4`. -/
def assetWord (W : List Byte) : Nat := (windowByte W 3).toNat * 256 + (windowByte W 4).toNat

/-- R85: `b0[5:0] ++ b1[7:0]`. -/
def putTileField (W : List Byte) : Nat := (windowByte W 0).toNat % 64 * 256 + (windowByte W 1).toNat

section Reference

variable {p : Profile} (h : p.isReference)
include h

/-- Table K-1: the profiles share every layout but the split of the asset word, which `OB` fixes (R91). -/
theorem layout_reference :
    p.layout = { layoutP2 with
      aBank := [⟨3, 7, p.assetOffsetBits - 8⟩], aOff := [⟨3, p.assetOffsetBits - 9, 0⟩, ⟨4, 7, 0⟩] } := by
  rcases h with rfl | rfl <;> rfl

theorem assetOffsetBits_reference : p.assetOffsetBits = 12 ∨ p.assetOffsetBits = 11 := by
  rcases h with rfl | rfl
  · exact .inl rfl
  · exact .inr rfl

/-- The asset word's upper bits (R86). -/
theorem extract_aBank (W : List Byte) : extract W p.layout.aBank = assetWord W / 2 ^ p.assetOffsetBits := by
  rw [layout_reference h]
  rcases assetOffsetBits_reference h with hob | hob <;>
    simp only [hob, extract, sliceBits, sliceWidth, fieldWidth, assetWord] <;> omega

/-- The asset word's low `OB` bits (R86). -/
theorem extract_aOff (W : List Byte) : extract W p.layout.aOff = assetWord W % 2 ^ p.assetOffsetBits := by
  rw [layout_reference h]
  rcases assetOffsetBits_reference h with hob | hob <;>
    simp only [hob, extract, sliceBits, sliceWidth, fieldWidth, assetWord] <;> omega

omit h in
theorem extract_posP2 (W : List Byte) : extract W layoutP2.aPos = posField W := by
  simp only [layoutP2, extract, sliceBits, sliceWidth, fieldWidth, posField]
  omega

omit h in
theorem extract_tileP2 (W : List Byte) : extract W layoutP2.aTile = tileField W := by
  simp only [layoutP2, extract, sliceBits, sliceWidth, fieldWidth, tileField]
  omega

omit h in
theorem extract_putP2 (W : List Byte) : extract W layoutP2.mTile = putTileField W := by
  simp only [layoutP2, extract, sliceBits, sliceWidth, fieldWidth, putTileField]
  omega

theorem decodeWindow_placeA (W : List Byte) : decodeWindow p .placeA W =
    .pla (posField W) (tileField W) (assetWord W / 2 ^ p.assetOffsetBits) (assetWord W % 2 ^ p.assetOffsetBits) := by
  rw [decodeWindow, extract_aBank h, extract_aOff h, layout_reference h, extract_posP2, extract_tileP2]

theorem decodeWindow_placeB (W : List Byte) : decodeWindow p .placeB W = .plb (posField W) (tileField W) := by
  rw [decodeWindow, layout_reference h]
  exact congrArg₂ Instr.plb (extract_posP2 W) (extract_tileP2 W)

theorem decodeWindow_put (W : List Byte) : decodeWindow p .put W = .put (putTileField W) := by
  rw [decodeWindow, layout_reference h, extract_putP2]

end Reference

/-! ## Decoding a whole window -/

/-- `V` is an operand window of class `cls` (R80). -/
def IsWindow (p : Profile) (cls : OpClass) (V : List Byte) : Prop :=
  V.length = 1 + operandCount cls ∧ classOf p (windowByte V 0) = cls

/-- A list that begins with a window decodes to what `decodeWindow` reads from it. -/
theorem decode_window_append {p : Profile} {cls : OpClass} {V : List Byte} (hV : IsWindow p cls V) (rest : List Byte) :
    decode p (V ++ rest) = .ok (decodeWindow p cls V, rest) := by
  obtain ⟨hlen, hcls⟩ := hV
  cases V with
  | nil => rw [List.length_nil] at hlen; omega
  | cons b0 operands =>
    obtain rfl : classOf p b0 = cls := hcls
    rw [List.length_cons, Nat.add_comm] at hlen
    exact decode_eq_ok_iff.2 ⟨b0, operands, rfl, Nat.add_left_cancel hlen, rfl⟩

theorem decode_window {p : Profile} {cls : OpClass} {V : List Byte} (hV : IsWindow p cls V) :
    decode p V = .ok (decodeWindow p cls V, []) := by
  simpa using decode_window_append hV []

/-- What decodes is a window and what follows it. -/
theorem window_of_decode {p : Profile} {W rest : List Byte} {i : Instr} (h : decode p W = .ok (i, rest)) :
    ∃ cls V, IsWindow p cls V ∧ W = V ++ rest ∧ i = decodeWindow p cls V := by
  obtain ⟨b0, operands, rfl, hlen, rfl⟩ := decode_eq_ok_iff.1 h
  exact ⟨classOf p b0, b0 :: operands, ⟨by rw [List.length_cons, hlen, Nat.add_comm], rfl⟩, rfl, rfl⟩

/-! ## The fields in words (R83 to R87, R91) -/

/-- A field narrower than the tile word leaves the word's upper bits 0 (R88). -/
theorem tileWord_extractLsb'_of_lt {tile lo : Nat} (h : tile < 2 ^ lo) (n : Nat) :
    (tileWord tile).extractLsb' lo n = 0 := by
  refine BitVec.eq_of_toNat_eq ?_
  have hlt : tile % 2 ^ 16 < 2 ^ lo := (Nat.mod_le _ _).trans_lt h
  rw [BitVec.extractLsb'_toNat, tileWord, BitVec.toNat_ofNat, Nat.shiftRight_eq_div_pow, Nat.div_eq_of_lt hlt]
  simp

/-- `2 ^ OB` tile blocks fill a bank, so each ends inside it (00_scope R3, 40_codec R86). -/
theorem assetBlock_le_bankSize {p : Profile} (h : geometryOk p = true) {aoff : Nat}
    (hoff : aoff < 2 ^ p.assetOffsetBits) :
    assetByteOffset p aoff + p.tileBytes ≤ p.bankSize := by
  obtain ⟨-, -, hbank, -⟩ := (geometryOk_iff p).1 h
  rw [← hbank, assetByteOffset, ← Nat.succ_mul]
  exact Nat.mul_le_mul_right _ hoff

/-- Settles O6: the fields as the reference layouts read them, and the geometry. -/
theorem placementFields : Obligations.PlacementFields := by
  intro p href
  refine ⟨fun b0 b1 b2 b3 b4 hb => ⟨?_, rfl, ?_⟩, fun b0 b1 b2 hlo hhi => ?_, fun b1 b2 => ?_⟩
  · obtain ⟨hA, -⟩ := classOf_reference_iff href b0
    rw [decode_window ⟨rfl, hA.2 hb⟩, decodeWindow_placeA href]
    rfl
  · exact assetBlock_le_bankSize (geometryOk_reference href) (Nat.mod_lt _ (Nat.two_pow_pos _))
  · obtain ⟨-, hB, -⟩ := classOf_reference_iff href b0
    rw [decode_window ⟨rfl, hB.2 ⟨hlo, hhi⟩⟩, decodeWindow_placeB href]
    rfl
  · exact tileWord_extractLsb'_of_lt (by omega) 4

/-- Settles O7: the field has 14 bits, so the tile word's upper two are 0. -/
theorem putField : Obligations.PutField := by
  intro p b0 b1 href hlo hhi
  obtain ⟨-, -, hM, -⟩ := classOf_reference_iff href b0
  refine ⟨?_, tileWord_extractLsb'_of_lt (by omega) 2⟩
  rw [decode_window ⟨rfl, hM.2 ⟨hlo, hhi⟩⟩, decodeWindow_put href]
  rfl

/-- R87, as a number. -/
theorem budgetOf_toNat (b0 : Byte) : (budgetOf b0).toNat = b0.toNat % 8 :=
  BitVec.toNat_setWidth ..

/-- Settles O8: the field is taken from `b0` itself, under whatever map gave the class. -/
theorem eofBudgetField : Obligations.EofBudgetField := by
  refine ⟨fun p b0 hcls => ⟨budgetOf b0, decode_window (cls := .endFrame) ⟨rfl, hcls⟩, ?_, ?_⟩, fun p b0 href => ?_⟩
  · rw [budgetOf_toNat, BitVec.toNat_and]
    exact (Nat.and_two_pow_sub_one_eq_mod _ 3).symm
  · omega
  · obtain ⟨-, -, -, hE⟩ := classOf_reference_iff href b0
    exact hE

/-- Settles O9: both profiles have one opcode map, and every layout but the asset word's two is shared. -/
theorem profilesDifferInAssetSplit : Obligations.ProfilesDifferInAssetSplit := by
  refine ⟨rfl, rfl, rfl, fun W rest i h => ?_⟩
  obtain ⟨cls, V, hV, rfl, rfl⟩ := window_of_decode h
  have hP4 : decode profileP4 (V ++ rest) = .ok (decodeWindow profileP4 cls V, rest) :=
    decode_window_append (p := profileP4) hV rest
  cases cls with
  | placeA =>
    rw [decodeWindow_placeA (.inr rfl)] at hP4
    rw [decodeWindow_placeA (.inl rfl)]
    exact ⟨_, _, hP4, (Nat.div_add_mod' _ _).trans (Nat.div_add_mod' _ _).symm, Nat.mod_lt _ (Nat.two_pow_pos _)⟩
  | placeB | put | bank | borderA | borderB | endStream | endFrame | reservedC0 | reservedE0 | reservedF4 => exact hP4

/-! ## The bytes of an encoding (30_encoding R62) -/

/-- The asset word of a bank and an offset: R86's `u` from its parts. -/
def assetWordOf (p : Profile) (abank aoff : Nat) : Nat := abank * 2 ^ p.assetOffsetBits + aoff % 2 ^ p.assetOffsetBits

section Reference

variable {p : Profile} (h : p.isReference)
include h

/-- The opcode byte carries the tile field's upper six bits. -/
theorem encode_put (tile : Nat) :
    encode p (.put tile) = [BitVec.ofNat 8 (0x80 + tile / 256 % 64), BitVec.ofNat 8 tile] := by
  obtain ⟨-, -, hput, -⟩ := opcodePattern_reference h
  rw [encode, blankWindow, hput, layout_reference h]
  simp only [layoutP2, deposit, addToByte_zero, addToByte_succ, sliceWidth, fieldWidth, operandCount, List.replicate,
    Nat.reduceAdd, Nat.reduceSub, Nat.reducePow, BitVec.ofNat_eq_ofNat, List.cons.injEq, and_true]
  bv_omega

theorem encode_plb (pos tile : Nat) : encode p (.plb pos tile) =
    [BitVec.ofNat 8 (0x40 + pos / 16 % 64), BitVec.ofNat 8 (pos % 16 * 16 + tile / 256 % 16), BitVec.ofNat 8 tile] := by
  obtain ⟨-, hplb, -⟩ := opcodePattern_reference h
  rw [encode, blankWindow, hplb, layout_reference h]
  simp only [layoutP2, deposit, addToByte_zero, addToByte_succ, sliceWidth, fieldWidth, operandCount, List.replicate,
    Nat.reduceAdd, Nat.reduceSub, Nat.reducePow, BitVec.ofNat_eq_ofNat, List.cons.injEq, and_true]
  bv_omega

theorem encode_pla (pos tile abank aoff : Nat) : encode p (.pla pos tile abank aoff) =
    [BitVec.ofNat 8 (0x00 + pos / 16 % 64), BitVec.ofNat 8 (pos % 16 * 16 + tile / 256 % 16), BitVec.ofNat 8 tile,
      BitVec.ofNat 8 (assetWordOf p abank aoff / 256), BitVec.ofNat 8 (assetWordOf p abank aoff)] := by
  obtain ⟨hpla, -⟩ := opcodePattern_reference h
  rw [encode, blankWindow, hpla, layout_reference h]
  rcases assetOffsetBits_reference h with hob | hob <;>
    simp only [hob, assetWordOf, layoutP2, deposit, addToByte_zero, addToByte_succ, sliceWidth, fieldWidth, operandCount,
      List.replicate, Nat.reduceAdd, Nat.reduceSub, Nat.reducePow, BitVec.ofNat_eq_ofNat, List.cons.injEq, and_true] <;>
    bv_omega

/-- The split of R86 takes the joined word apart again. -/
theorem assetWordOf_spec {abank aoff : Nat} (hbank : abank < 2 ^ (16 - p.assetOffsetBits))
    (hoff : aoff < 2 ^ p.assetOffsetBits) : assetWordOf p abank aoff < 2 ^ 16 ∧
      assetWordOf p abank aoff / 2 ^ p.assetOffsetBits = abank ∧
      assetWordOf p abank aoff % 2 ^ p.assetOffsetBits = aoff := by
  rw [assetWordOf]
  rcases assetOffsetBits_reference h with hob | hob <;> rw [hob] at hbank hoff ⊢ <;> omega

/-! ## Reading an encoding back -/

omit h in
/-- The bytes PLA and PLB begin with; `c` is the opcode byte with its operand bits 0. -/
theorem placement_bytes_read {c pos tile : Nat} {W asset : List Byte} (hc : c % 64 = 0) (hpos : pos < 2 ^ 10)
    (htile : tile < 2 ^ 12) (hW : W = BitVec.ofNat 8 (c + pos / 16 % 64) ::
      BitVec.ofNat 8 (pos % 16 * 16 + tile / 256 % 16) :: BitVec.ofNat 8 tile :: asset) :
    posField W = pos ∧ tileField W = tile := by
  simp only [hW, posField, tileField, windowByte_zero, windowByte_succ, BitVec.toNat_ofNat]
  omega

theorem encode_put_reads {tile : Nat} (htile : tile < 2 ^ 14) :
    IsWindow p .put (encode p (.put tile)) ∧ decodeWindow p .put (encode p (.put tile)) = .put tile := by
  rw [decodeWindow_put h, encode_put h]
  obtain ⟨-, -, hM, -⟩ := classOf_reference_iff h (BitVec.ofNat 8 (0x80 + tile / 256 % 64))
  refine ⟨⟨rfl, hM.2 (by rw [BitVec.toNat_ofNat]; omega)⟩, ?_⟩
  simp only [putTileField, windowByte_zero, windowByte_succ, BitVec.toNat_ofNat, Instr.put.injEq]
  omega

theorem encode_plb_reads {pos tile : Nat} (hpos : pos < 2 ^ 10) (htile : tile < 2 ^ 12) :
    IsWindow p .placeB (encode p (.plb pos tile)) ∧ decodeWindow p .placeB (encode p (.plb pos tile)) = .plb pos tile := by
  obtain ⟨hreadPos, hreadTile⟩ := placement_bytes_read (by decide) hpos htile (encode_plb h pos tile)
  rw [decodeWindow_placeB h, hreadPos, hreadTile, encode_plb h]
  obtain ⟨-, hB, -⟩ := classOf_reference_iff h (BitVec.ofNat 8 (0x40 + pos / 16 % 64))
  exact ⟨⟨rfl, hB.2 (by rw [BitVec.toNat_ofNat]; omega)⟩, rfl⟩

theorem encode_pla_reads {pos tile abank aoff : Nat} (hpos : pos < 2 ^ 10) (htile : tile < 2 ^ 12)
    (hbank : abank < 2 ^ (16 - p.assetOffsetBits)) (hoff : aoff < 2 ^ p.assetOffsetBits) :
    IsWindow p .placeA (encode p (.pla pos tile abank aoff)) ∧
      decodeWindow p .placeA (encode p (.pla pos tile abank aoff)) = .pla pos tile abank aoff := by
  obtain ⟨hreadPos, hreadTile⟩ := placement_bytes_read (by decide) hpos htile (encode_pla h pos tile abank aoff)
  obtain ⟨hword, hupper, hlower⟩ := assetWordOf_spec h hbank hoff
  have hreadAsset : assetWord (encode p (.pla pos tile abank aoff)) = assetWordOf p abank aoff := by
    simp only [encode_pla h, assetWord, windowByte_zero, windowByte_succ, BitVec.toNat_ofNat]
    omega
  rw [decodeWindow_placeA h, hreadPos, hreadTile, hreadAsset, hupper, hlower, encode_pla h]
  obtain ⟨hA, -⟩ := classOf_reference_iff h (BitVec.ofNat 8 (0x00 + pos / 16 % 64))
  exact ⟨⟨rfl, hA.2 (by rw [BitVec.toNat_ofNat]; omega)⟩, rfl⟩

/-- EOF `k` is the byte `0xF8 + k` (30_encoding R68). -/
theorem encode_eof_reads (k : Budget) :
    IsWindow p .endFrame (encode p (.eof k)) ∧ decodeWindow p .endFrame (encode p (.eof k)) = .eof k := by
  have hbyte : ∀ k : Budget, 0xF8 ≤ (0xF8 + k.setWidth 8 : Byte).toNat ∧ budgetOf (0xF8 + k.setWidth 8) = k := by decide
  obtain ⟨hrange, hbudget⟩ := hbyte k
  rw [encode, eofOpcode_reference h]
  obtain ⟨-, -, -, hE⟩ := classOf_reference_iff h (0xF8 + k.setWidth 8)
  exact ⟨⟨rfl, hE.2 hrange⟩, congrArg Instr.eof hbudget⟩

end Reference

/-! ## The round trips (R92) -/

/-- Windows of one class that read as the same instruction are equal: the class fixes the bits that select it, and every
other bit lies in a field. -/
theorem decodeWindow_injective {p : Profile} (h : p.isReference) {cls : OpClass} {V V' : List Byte} (hV : IsWindow p cls V)
    (hV' : IsWindow p cls V') (heq : decodeWindow p cls V = decodeWindow p cls V') : V = V' := by
  obtain ⟨hlen, hcls⟩ := hV
  obtain ⟨hlen', hcls'⟩ := hV'
  refine window_ext (hlen.trans hlen'.symm) fun k hk => ?_
  rw [hlen] at hk
  obtain ⟨hA, hB, hM, -⟩ := classOf_reference_iff h (windowByte V 0)
  obtain ⟨hA', hB', hM', -⟩ := classOf_reference_iff h (windowByte V' 0)
  cases cls with
  | placeA =>
    rw [decodeWindow_placeA h, decodeWindow_placeA h] at heq
    injection heq with hpos htile hbank hoff
    have hasset : assetWord V = assetWord V' := by
      rw [← Nat.div_add_mod (assetWord V) (2 ^ p.assetOffsetBits), hbank, hoff, Nat.div_add_mod]
    have hb0 := hA.1 hcls
    have hb0' := hA'.1 hcls'
    simp only [posField, tileField, assetWord] at hpos htile hasset
    refine BitVec.eq_of_toNat_eq ?_
    change k < 5 at hk
    interval_cases k <;> omega
  | placeB =>
    rw [decodeWindow_placeB h, decodeWindow_placeB h] at heq
    injection heq with hpos htile
    have hb0 := hB.1 hcls
    have hb0' := hB'.1 hcls'
    simp only [posField, tileField] at hpos htile
    refine BitVec.eq_of_toNat_eq ?_
    change k < 3 at hk
    interval_cases k <;> omega
  | put =>
    rw [decodeWindow_put h, decodeWindow_put h] at heq
    injection heq with htile
    have hb0 := hM.1 hcls
    have hb0' := hM'.1 hcls'
    simp only [putTileField] at htile
    refine BitVec.eq_of_toNat_eq ?_
    change k < 2 at hk
    interval_cases k <;> omega
  | bank | borderA | borderB | endStream =>
    obtain rfl : k = 0 := Nat.lt_one_iff.1 hk
    exact (fixedCode_existsUnique (fixedCodesOk_reference h) (by decide)).unique hcls hcls'
  | endFrame =>
    obtain rfl : k = 0 := Nat.lt_one_iff.1 hk
    injection heq with hbudget
    have hmod := congrArg BitVec.toNat hbudget
    rw [budgetOf_toNat, budgetOf_toNat] at hmod
    exact (eofCode_existsUnique (eofCodesOk_reference h) (Nat.mod_lt _ (by decide))).unique ⟨hcls, rfl⟩ ⟨hcls', hmod.symm⟩
  | reservedC0 | reservedE0 | reservedF4 =>
    obtain rfl : k = 0 := Nat.lt_one_iff.1 hk
    injection heq

/-- The widths of table K-1. -/
theorem fieldWidth_reference {p : Profile} (h : p.isReference) :
    fieldWidth p.layout.aPos = 10 ∧ fieldWidth p.layout.aTile = 12 ∧
      fieldWidth p.layout.aBank = 16 - p.assetOffsetBits ∧ fieldWidth p.layout.aOff = p.assetOffsetBits ∧
      fieldWidth p.layout.bPos = 10 ∧ fieldWidth p.layout.bTile = 12 ∧ fieldWidth p.layout.mTile = 14 := by
  rcases h with rfl | rfl <;> decide

/-- The encoding of a well-formed instruction is a window of the instruction's class that reads as the instruction. -/
theorem encode_reads {p : Profile} (h : p.isReference) {i : Instr} (hwf : WellFormed p i = true) :
    IsWindow p (classOfInstr i) (encode p i) ∧ decodeWindow p (classOfInstr i) (encode p i) = i := by
  obtain ⟨hwPosA, hwTileA, hwBank, hwOff, hwPosB, hwTileB, hwTileM⟩ := fieldWidth_reference h
  cases i with
  | pla pos tile abank aoff =>
    simp only [WellFormed, Bool.and_eq_true, decide_eq_true_eq, hwPosA, hwTileA, hwBank, hwOff] at hwf
    obtain ⟨⟨⟨hpos, htile⟩, hbank⟩, hoff⟩ := hwf
    exact encode_pla_reads h hpos htile hbank hoff
  | plb pos tile =>
    simp only [WellFormed, Bool.and_eq_true, decide_eq_true_eq, hwPosB, hwTileB] at hwf
    obtain ⟨hpos, htile⟩ := hwf
    exact encode_plb_reads h hpos htile
  | put tile =>
    simp only [WellFormed, decide_eq_true_eq, hwTileM] at hwf
    exact encode_put_reads h hwf
  | bank | borda | bordb | eos =>
    exact ⟨⟨rfl, classOf_opcodePattern_of_exists
      (fixedCode_existsUnique (fixedCodesOk_reference h) (by decide)).exists⟩, rfl⟩
  | eof k => exact encode_eof_reads h k
  | reservedC0 b0 | reservedE0 b0 | reservedF4 b0 => exact ⟨⟨rfl, beq_iff_eq.1 hwf⟩, rfl⟩

/-- Settles O1: the encoding is a window, and a window decodes to what it reads as. -/
theorem decodeOfEncode : Obligations.DecodeOfEncode := by
  intro p href i hwf rest
  obtain ⟨hwindow, hread⟩ := encode_reads href hwf
  rw [decode_window_append hwindow, hread]

/-- Settles O2: the encoding of what was read is a window that reads the same, so it is the window read. -/
theorem encodeOfDecode : Obligations.EncodeOfDecode := by
  intro p href W rest i h
  obtain ⟨hwindow, hread⟩ := encode_reads href (decodedIsWellFormed p href W rest i h)
  obtain ⟨cls, V, hV, rfl, rfl⟩ := window_of_decode h
  rw [classOfInstr_decodeWindow] at hwindow hread
  rw [decodeWindow_injective href hwindow hV hread]

end Sys2Proof
end

section
/-! The placement instructions (41_placement): the cursor step (O15, O16), PLB and PUT (O17, O18), PLA (O19 to O21), the
one cell an instruction writes (O22), and the cursor after a run of PUTs (O24). -/

namespace Sys2Proof.Machine

/-! ## The cursor step -/

/-- The constants of both reference profiles: pitch 32, last column 23, skip 9. -/
theorem advance1_reference {p : Profile} (h : p.isReference) (c : Nat) :
    advance1 p c = if c % 32 = 23 then c + 9 else c + 1 := by
  rcases h with rfl | rfl <;> rfl

/-- Settles O15: the definition, and its two branches under the reference constants. -/
theorem advanceOneStep : Obligations.AdvanceOneStep := by
  refine ⟨fun _ _ => rfl, fun p c href => ?_⟩
  rw [advance1_reference href]
  split <;> omega

/-- Settles O16. -/
theorem cursorStaysInGrid : Obligations.CursorStaysInGrid :=
  fun _ _ hpitch hc => advance1_le_fbCells hpitch hc

/-! ## Writing a cell -/

theorem placeAndAdvance_of_lt {c : Nat} {s : State} (h : c < s.launch.prof.fbCells) (tw : TileWord) (stride : Nat) :
    placeAndAdvance c tw stride s = .ok (moveCursor (advanceBy s.launch.prof c stride) (writeNextCell c tw s)) :=
  if_neg (Nat.not_le.2 h)

theorem placeAndAdvance_of_le {c : Nat} {s : State} (h : s.launch.prof.fbCells ≤ c) (tw : TileWord) (stride : Nat) :
    placeAndAdvance c tw stride s = .error .posRange :=
  if_pos h

/-- A cell write changes its own cell of the next buffer, and nothing in the current one (41_placement R100). -/
theorem oneCellWritten_writeNextCell (c : Nat) (tw : TileWord) (s : State) :
    OneCellWritten c tw s (writeNextCell c tw s) :=
  ⟨by rw [cellAt_writeNextCell, if_pos ⟨rfl, rfl⟩],
    fun d hd => by rw [cellAt_writeNextCell, if_neg fun h => hd h.2],
    cellAt_writeNextCell_curSel c tw s⟩

theorem oneCellWritten_placed (cls : OpClass) (c tile n : Nat) (s : State) :
    OneCellWritten c (tileWord tile) s (placed cls c tile n s) :=
  oneCellWritten_writeNextCell c (tileWord tile) (advanceOff cls s)

theorem sameTilesAndRoms_placed (cls : OpClass) (c tile n : Nat) (s : State) :
    SameTilesAndRoms s (placed cls c tile n s) :=
  ⟨Memory.setFb_tile _ _ _, Memory.setFb_cmdRom _ _ _, Memory.setFb_assetRom _ _ _⟩

/-- The tile fetch that goes before PLA's cell write changes no cell. -/
theorem oneCellWritten_placedFetched (pos tile abank : Nat) (block : List Byte) (s : State) :
    OneCellWritten pos (tileWord tile) s (placedFetched pos tile abank block s) :=
  oneCellWritten_writeNextCell pos (tileWord tile) (fetchTile (s.launch.assetBankBase + abank)
    (tileIndex s.launch.prof (tileWord tile)) block (advanceOff .placeA s))

theorem OneCellWritten.eq_of_changed {c d : Nat} {tw : TileWord} {s t : State} (h : OneCellWritten c tw s t)
    (hne : cellAt t s.curSel.other d ≠ cellAt s s.curSel.other d) : d = c := by
  obtain ⟨-, hothers, -⟩ := h
  exact not_imp_comm.1 (hothers d) hne

/-- Settles O22: a fault and the control codes write no cell, and each placement writes one. -/
theorem onlyPlacedCellChanges : Obligations.OnlyPlacedCellChanges := by
  intro i s t c hexec hne
  rcases exec_cases hexec with ⟨code, -, rfl⟩ | ⟨pos, tile, rfl, -, rfl⟩ | ⟨tile, rfl, -, rfl⟩ |
    ⟨pos, tile, abank, aoff, block, rfl, -, -, -, -, rfl⟩ | ⟨-, -, rfl⟩ | ⟨-, rfl⟩ | ⟨-, rfl⟩ | ⟨-, rfl⟩ | ⟨k, -, rfl⟩
  · exact absurd rfl hne
  · exact (oneCellWritten_placed _ _ _ _ _).eq_of_changed hne
  · exact (oneCellWritten_placed _ _ _ _ _).eq_of_changed hne
  · exact (oneCellWritten_placedFetched _ _ _ _ _).eq_of_changed hne
  · exact absurd rfl hne
  · exact absurd rfl hne
  · exact absurd rfl hne
  · exact absurd rfl hne
  · exact absurd rfl hne

/-! ## PLB and PUT -/

theorem exec_plb_of_lt {pos : Nat} {s : State} (h : pos < s.launch.prof.fbCells) (tile : Nat) :
    exec (.plb pos tile) s = .next (placed .placeB pos tile s.launch.prof.strideB s) :=
  congrArg (settle s) (placeAndAdvance_of_lt (s := advanceOff .placeB s) h _ _)

theorem exec_plb_of_le {pos : Nat} {s : State} (h : s.launch.prof.fbCells ≤ pos) (tile : Nat) :
    exec (.plb pos tile) s = .next (raiseAtInstr .posRange s) :=
  congrArg (settle s) (placeAndAdvance_of_le (s := advanceOff .placeB s) h _ _)

theorem exec_put_of_lt {s : State} (h : s.cursor < s.launch.prof.fbCells) (tile : Nat) :
    exec (.put tile) s = .next (placed .put s.cursor tile s.launch.prof.strideM s) :=
  congrArg (settle s) (placeAndAdvance_of_lt (s := advanceOff .put s) h _ _)

theorem exec_put_of_le {s : State} (h : s.launch.prof.fbCells ≤ s.cursor) (tile : Nat) :
    exec (.put tile) s = .next (raiseAtInstr .posRange s) :=
  congrArg (settle s) (placeAndAdvance_of_le (s := advanceOff .put s) h _ _)

/-- Settles O17, inside the grid and past it. -/
theorem plbCompletes : Obligations.PlbCompletes :=
  fun _ _ tile => ⟨fun hpos => ⟨_, exec_plb_of_lt hpos tile, oneCellWritten_placed _ _ _ _ _,
    sameTilesAndRoms_placed _ _ _ _ _, rfl⟩, fun hpos => exec_plb_of_le hpos tile⟩

/-- Settles O18, inside the grid and past it. -/
theorem putCompletes : Obligations.PutCompletes :=
  fun _ tile => ⟨fun hcursor => ⟨_, exec_put_of_lt hcursor tile, oneCellWritten_placed _ _ _ _ _,
    sameTilesAndRoms_placed _ _ _ _ _, rfl⟩, fun hcursor => exec_put_of_le hcursor tile⟩

/-! ## PLA's checks, one outcome each (41_placement R110) -/

@[simp] theorem assetBlock_advanceOff (cls : OpClass) (s : State) (bank aoff : Nat) :
    assetBlock (advanceOff cls s) bank aoff = assetBlock s bank aoff :=
  assetBlock_congr (s := s) (t := advanceOff cls s) rfl rfl bank aoff

section Checks

variable {s : State} {pos tile abank aoff : Nat}

theorem exec_pla_bankFault (hbank : Config.topBank < s.launch.assetBankBase + abank) :
    exec (.pla pos tile abank aoff) s = .next (raiseAtInstr .assetBankRange s) :=
  congrArg (settle s) (if_pos hbank)

variable (hbank : s.launch.assetBankBase + abank ≤ Config.topBank)
include hbank

theorem exec_pla_slotFault (hslot : s.launch.prof.tileSlots ≤ tileIndex s.launch.prof (tileWord tile)) :
    exec (.pla pos tile abank aoff) s = .next (raiseAtInstr .slotRange s) :=
  congrArg (settle s) ((if_neg (Nat.not_lt.2 hbank)).trans (if_pos hslot))

variable (hslot : tileIndex s.launch.prof (tileWord tile) < s.launch.prof.tileSlots)
include hslot

theorem exec_pla_missingFault (habsent : assetBlock s (s.launch.assetBankBase + abank) aoff = none) :
    exec (.pla pos tile abank aoff) s = .next (raiseAtInstr .assetMissing s) := by
  simp [exec, execPla, placeFetched, Nat.not_lt.2 hbank, Nat.not_le.2 hslot, habsent, settle]

/-- With its block at hand PLA fetches the tile, and the check of the position is the cell write's. -/
theorem exec_pla_of_block {block : List Byte} (hblock : assetBlock s (s.launch.assetBankBase + abank) aoff = some block) :
    exec (.pla pos tile abank aoff) s =
      settle s (placeAndAdvance pos (tileWord tile) s.launch.prof.strideA
        (fetchTile (s.launch.assetBankBase + abank) (tileIndex s.launch.prof (tileWord tile)) block
          (advanceOff .placeA s))) := by
  simp [exec, execPla, placeFetched, Nat.not_lt.2 hbank, Nat.not_le.2 hslot, hblock]

theorem exec_pla_posFault {block : List Byte} (hblock : assetBlock s (s.launch.assetBankBase + abank) aoff = some block)
    (hpos : s.launch.prof.fbCells ≤ pos) : exec (.pla pos tile abank aoff) s = .next (raiseAtInstr .posRange s) := by
  rw [exec_pla_of_block hbank hslot hblock]
  exact congrArg (settle s) (placeAndAdvance_of_le (s := fetchTile _ _ block (advanceOff .placeA s)) hpos _ _)

theorem exec_pla_placed {block : List Byte} (hblock : assetBlock s (s.launch.assetBankBase + abank) aoff = some block)
    (hpos : pos < s.launch.prof.fbCells) :
    exec (.pla pos tile abank aoff) s = .next (placedFetched pos tile abank block s) := by
  rw [exec_pla_of_block hbank hslot hblock]
  exact congrArg (settle s) (placeAndAdvance_of_lt (s := fetchTile _ _ block (advanceOff .placeA s)) hpos _ _)

end Checks

/-- Settles O20, check by check. -/
theorem plaChecksInOrder : Obligations.PlaChecksInOrder := by
  intro s pos tile abank aoff
  refine ⟨exec_pla_bankFault, exec_pla_slotFault, fun hbank hslot habsent => ?_, fun hbank hslot hpresent hpos => ?_⟩
  · rw [← assetBlock_isSome_iff, Option.not_isSome_iff_eq_none] at habsent
    exact exec_pla_missingFault hbank hslot habsent
  · obtain ⟨block, hblock⟩ := Option.isSome_iff_exists.1 ((assetBlock_isSome_iff s _ _).2 hpresent)
    exact exec_pla_posFault hbank hslot hblock hpos

/-! ## PLA's effect -/

/-- A PLA faults, or places its cell with some block fetched. -/
theorem exec_pla_next {s t : State} {pos tile abank aoff : Nat} (h : exec (.pla pos tile abank aoff) s = .next t) :
    (∃ code, t = raiseAtInstr code s) ∨ ∃ block, t = placedFetched pos tile abank block s := by
  have hnext {u : State} (e : execPla pos tile abank aoff s = .next u) : t = u :=
    Host.Outcome.next.inj (h.symm.trans e)
  rcases execPla_cases pos tile abank aoff s with ⟨-, e⟩ | ⟨-, -, e⟩ | ⟨-, -, -, e⟩ | ⟨block, -, -, -, ⟨-, e⟩ | ⟨-, e⟩⟩
  · exact .inl ⟨_, hnext e⟩
  · exact .inl ⟨_, hnext e⟩
  · exact .inl ⟨_, hnext e⟩
  · exact .inl ⟨_, hnext e⟩
  · exact .inr ⟨block, hnext e⟩

/-- Settles O21: the command ROM and `CMD_BANK` by the frame of the instructions, `CMD_OFF` by PLA's two outcomes. -/
theorem plaKeepsCommandStream : Obligations.PlaKeepsCommandStream := by
  intro s t pos tile abank aoff hexec
  obtain ⟨-, hbank, -⟩ := exec_frame hexec
  obtain ⟨hmem, hlaunch⟩ := exec_mem_launch hexec
  obtain ⟨hcmdRom, -⟩ := hmem.roms
  refine ⟨hbank.resolve_right fun ⟨hcls, _⟩ => (by cases hcls), cmdRead_congr hcmdRom hlaunch, ?_⟩
  rcases exec_pla_next hexec with ⟨code, rfl⟩ | ⟨block, rfl⟩
  · exact .inr ⟨rfl, rfl, rfl⟩
  · exact .inl ⟨rfl, rfl, rfl⟩

theorem Store.read_writeBlock_inside {w : Nat} (m : Store w) (a : Nat) {j : Nat} {vs : List (BitVec w)}
    (hj : j < vs.length) : Store.read (Store.writeBlock m a vs) (a + j) = vs[j]? := by
  rw [Store.read_writeBlock, if_pos (by omega), Nat.add_sub_cancel_left]

theorem Store.read_writeBlock_outside {w : Nat} (m : Store w) {a b : Nat} {vs : List (BitVec w)}
    (hb : b < a ∨ a + vs.length ≤ b) : Store.read (Store.writeBlock m a vs) b = Store.read m b := by
  rw [Store.read_writeBlock, if_neg (by omega)]

theorem placedFetched_tile (pos tile abank : Nat) (block : List Byte) (s : State) :
    (placedFetched pos tile abank block s).mem.tile = Store.writeBlock s.mem.tile
      (tileIndex s.launch.prof (tileWord tile) * s.launch.prof.tileBytes) block :=
  Memory.setFb_tile _ _ _

/-- Settles O19: the block found by the asset check is the one that the slot reads back. -/
theorem plaCompletes : Obligations.PlaCompletes := by
  intro s pos tile abank aoff p bank slot hbank hslot hpresent hpos
  obtain ⟨block, hblock⟩ := Option.isSome_iff_exists.1 ((assetBlock_isSome_iff s bank aoff).2 hpresent)
  obtain ⟨hlen, hbytes⟩ := assetBytes_some hblock
  have htile := placedFetched_tile pos tile abank block s
  refine ⟨_, exec_pla_placed hbank hslot hblock hpos, oneCellWritten_placedFetched _ _ _ _ _, fun j hj => ?_,
    fun a ha => ?_, Memory.setFb_cmdRom _ _ _, Memory.setFb_assetRom _ _ _, rfl,
    (BitVec.toNat_ofNat bank 8).trans (Nat.mod_eq_of_lt (Nat.lt_succ_of_le hbank))⟩
  · calc tileByte (placedFetched pos tile abank block s) slot j
        = Store.read (placedFetched pos tile abank block s).mem.tile (slot * p.tileBytes + j) := if_pos ⟨hslot, hj⟩
      _ = block[j]? := by rw [htile, Store.read_writeBlock_inside _ _ (hlen.symm ▸ hj)]
      _ = assetRead s bank (aoff * p.tileBytes + j) := (hbytes j hj).symm
  · rw [htile, Store.read_writeBlock_outside _ (hlen.symm ▸ ha)]

/-! ## A run of PUTs -/

/-- The cursor after `n` PUTs from cursor 0: each full row of 24 skips 8 cells (41_placement R111). -/
def cursorAfterPuts (n : Nat) : Nat := n + 8 * (n / 24)

/-- 768 is the number of cells the cursor visits: 24 in each of the 32 rows. -/
theorem cursorAfterPuts_lt {n : Nat} (h : n < 768) : cursorAfterPuts n < 1024 := by
  rw [cursorAfterPuts]
  omega

/-- `n` PUTs leave the cursor in column `n % 24`, so every 24th step is the one that skips. -/
theorem advance1_cursorAfterPuts {p : Profile} (h : p.isReference) (n : Nat) :
    advance1 p (cursorAfterPuts n) = cursorAfterPuts (n + 1) := by
  have hcolumn : cursorAfterPuts n % 32 = n % 24 := by rw [cursorAfterPuts]; omega
  rw [advance1_reference h, hcolumn, cursorAfterPuts, cursorAfterPuts]
  split <;> omega

theorem fbCells_reference {p : Profile} (h : p.isReference) : p.fbCells = 1024 := by
  rcases h with rfl | rfl <;> rfl

/-- A run of PUTs that begins after `n` others and ends inside the buffer. -/
theorem execAll_puts {tiles : List Nat} {s : State} {n : Nat} (href : s.launch.prof.isReference)
    (hcursor : s.cursor = cursorAfterPuts n) (hn : n + tiles.length ≤ 768) :
    ∃ t, execAll (tiles.map Instr.put) s = .next t ∧ t.cursor = cursorAfterPuts (n + tiles.length) ∧
      t.cmdOff = s.cmdOff + 2 * tiles.length ∧ t.phase = s.phase := by
  induction tiles generalizing s n with
  | nil => exact ⟨s, rfl, hcursor, rfl, rfl⟩
  | cons tile tiles ih =>
    rw [List.length_cons] at hn ⊢
    have hinGrid : s.cursor < s.launch.prof.fbCells := by
      rw [hcursor, fbCells_reference href]
      exact cursorAfterPuts_lt (by omega)
    obtain ⟨-, -, hstride⟩ := strides_reference href
    have hput := exec_put_of_lt hinGrid tile
    rw [hstride] at hput
    have hmoved : (placed .put s.cursor tile 1 s).cursor = cursorAfterPuts (n + 1) :=
      (congrArg (advance1 s.launch.prof) hcursor).trans (advance1_cursorAfterPuts href n)
    obtain ⟨t, hexec, htcursor, htoff, htphase⟩ := ih (s := placed .put s.cursor tile 1 s) href hmoved (by omega)
    refine ⟨t, (execAll_cons hput).trans hexec, ?_, ?_, htphase⟩
    · rw [htcursor, Nat.add_right_comm, Nat.add_assoc]
    · have hoff : (placed .put s.cursor tile 1 s).cmdOff = s.cmdOff + 2 := rfl
      omega

/-- Settles O24: a run of PUTs that begins after none. -/
theorem cursorLaw : Obligations.CursorLaw := by
  intro s tiles href hcursor hlen
  have hputs := execAll_puts (n := 0) href hcursor (by rwa [Nat.zero_add])
  rwa [Nat.zero_add] at hputs

end Sys2Proof.Machine
end

section
/-! The control instructions (42_stream_control): the fetch (O11, O12), BANK (O25), the border codes (O26), EOF and EOS
(O27, O28), the reserved opcodes (O29), and how the command position moves (O30). -/

namespace Sys2Proof.Machine

/-! ## The control codes -/

theorem exec_borda (s : State) :
    exec .borda s = .next (setPendingBorder s.launch.borderA (advanceOff .borderA s)) := rfl

theorem exec_bordb (s : State) :
    exec .bordb s = .next (setPendingBorder s.launch.borderB (advanceOff .borderB s)) := rfl

theorem exec_eof (k : Budget) (s : State) :
    exec (.eof k) s = .next (awaitBudget k (signalMoreFrames (advanceOff .endFrame s))) := rfl

theorem exec_eos (s : State) : exec .eos s = .next (enterDone (signalStreamDone (advanceOff .endStream s))) := rfl

/-- Settles O26, each code by its equation: neither update names a display field. -/
theorem borderCodesComplete : Obligations.BorderCodesComplete := fun s => ⟨exec_borda s, exec_bordb s⟩

/-- Settles O27 by the equation of the code: its updates name different fields. -/
theorem eofCompletes : Obligations.EofCompletes := fun s k => exec_eof k s

/-- Settles O28 by the equation of the code: its updates name different fields. -/
theorem eosCompletes : Obligations.EosCompletes := exec_eos

/-! ## BANK -/

/-- Below the top bank the increment does not wrap (42_stream_control R128). -/
theorem toNat_nextBank {bank : Bank} (h : bank.toNat ≠ Config.topBank) : (bank + 1).toNat = bank.toNat + 1 := by
  change bank.toNat ≠ 255 at h
  bv_omega

theorem exec_bank_of_ne {s : State} (h : s.cmdBank.toNat ≠ Config.topBank) :
    exec .bank s = .next { s with cmdBank := s.cmdBank + 1, cmdOff := 0 } := by
  rcases execBank_cases s with ⟨htop, -⟩ | ⟨-, e⟩
  · exact absurd htop h
  · exact e

theorem exec_bank_of_top {s : State} (h : s.cmdBank.toNat = Config.topBank) :
    exec .bank s = .next (raiseAtInstr .cmdBankRange s) := by
  rcases execBank_cases s with ⟨-, e⟩ | ⟨hne, -⟩
  · exact e
  · exact absurd h hne

/-- Settles O25, below the top bank and in it. -/
theorem bankCompletes : Obligations.BankCompletes := by
  refine fun s => ⟨fun hlt => ?_, exec_bank_of_top⟩
  have hne : s.cmdBank.toNat ≠ Config.topBank := Nat.ne_of_lt hlt
  exact ⟨_, exec_bank_of_ne hne, rfl, toNat_nextBank hne⟩

/-! ## How an instruction moves the command position -/

/-- An instruction faults where it stands, switches the bank, or passes its opcode and operand bytes. -/
theorem exec_position {i : Instr} {s t : State} (h : exec i s = .next t) :
    (∃ code, t = raiseAtInstr code s) ∨
    (i = .bank ∧ s.cmdBank.toNat ≠ Config.topBank ∧ t.cmdBank = s.cmdBank + 1 ∧ t.cmdOff = 0) ∨
    (i ≠ .bank ∧ t.cmdBank = s.cmdBank ∧ t.cmdOff = s.cmdOff + (1 + operandCount (classOfInstr i))) := by
  rcases exec_cases h with ⟨code, -, rfl⟩ | ⟨pos, tile, rfl, -, rfl⟩ | ⟨tile, rfl, -, rfl⟩ |
    ⟨pos, tile, abank, aoff, block, rfl, -, -, -, -, rfl⟩ | ⟨rfl, hne, rfl⟩ | ⟨rfl, rfl⟩ | ⟨rfl, rfl⟩ | ⟨rfl, rfl⟩ |
    ⟨k, rfl, rfl⟩
  · exact .inl ⟨code, rfl⟩
  · exact .inr (.inr ⟨nofun, rfl, rfl⟩)
  · exact .inr (.inr ⟨nofun, rfl, rfl⟩)
  · exact .inr (.inr ⟨nofun, rfl, rfl⟩)
  · exact .inr (.inl ⟨rfl, hne, rfl, rfl⟩)
  · exact .inr (.inr ⟨nofun, rfl, rfl⟩)
  · exact .inr (.inr ⟨nofun, rfl, rfl⟩)
  · exact .inr (.inr ⟨nofun, rfl, rfl⟩)
  · exact .inr (.inr ⟨nofun, rfl, rfl⟩)

/-- The law of the encoded length, over all instructions (30_encoding R60). -/
theorem encode_length (p : Profile) (i : Instr) : (encode p i).length = 1 + operandCount (classOfInstr i) := by
  cases i with
  | pla pos tile abank aoff => exact Laws.EncodedLength.pla pos tile abank aoff p
  | plb pos tile => exact Laws.EncodedLength.plb pos tile p
  | put tile => exact Laws.EncodedLength.put tile p
  | bank => exact Laws.EncodedLength.bank p
  | borda => exact Laws.EncodedLength.borda p
  | bordb => exact Laws.EncodedLength.bordb p
  | eos => exact Laws.EncodedLength.eos p
  | eof k => exact Laws.EncodedLength.eof k p
  | reservedC0 b0 => exact Laws.EncodedLength.reservedC0 b0 p
  | reservedE0 b0 => exact Laws.EncodedLength.reservedE0 b0 p
  | reservedF4 b0 => exact Laws.EncodedLength.reservedF4 b0 p

/-- Settles O30: the bytes an instruction passes are those of its encoding. -/
theorem positionMovesForward : Obligations.PositionMovesForward := by
  intro i s t hexec
  rcases exec_position hexec with ⟨code, rfl⟩ | ⟨hi, hne, hbank, hoff⟩ | ⟨hi, hbank, hoff⟩
  · exact .inl ⟨rfl, rfl, rfl⟩
  · exact .inr (.inl ⟨hi, hbank ▸ toNat_nextBank hne, hoff⟩)
  · exact .inr (.inr ⟨hi, hbank, by rw [encode_length, hoff]⟩)

/-! ## The fetch: bytes that can be read -/

section Fetch

variable {s : State}

/-- The Engine's turn in Decoding is the Decoding step with the turn off the agenda. -/
theorem step_decoding (hturn : EngineTurn s) (hp : s.phase = .decoding) (hd : s.displayOnly = false) :
    step s = stepDecode (popTurn s) :=
  (step_of_engineTurn hturn).trans (engineStep_decoding (s := popTurn s) hp hd)

theorem stepDecode_of_fetched {W rest : List Byte} {i : Instr} (hW : fetchWindow s = .ok W)
    (hdecode : decode s.launch.prof W = .ok (i, rest)) : stepDecode s = exec i s := by
  simp only [stepDecode, hW, hdecode]

/-- The window is the opcode byte and its class's operand bytes, where the ROM holds them all (40_codec R80). -/
theorem fetchWindow_of_cmdRead {b0 : Byte} {operands : List Byte}
    (hbytes : ∀ j < (b0 :: operands).length, cmdRead s s.cmdBank (s.cmdOff + j) = (b0 :: operands)[j]?)
    (hlen : operands.length = operandCount (classOf s.launch.prof b0)) : fetchWindow s = .ok (b0 :: operands) := by
  have hopcode : readCmd s 0 = .ok b0 := readCmd_of_cmdRead (hbytes 0 (Nat.succ_pos _))
  have hoperands : readOperands s 1 operands.length = .ok operands := by
    refine readOperands_of_readCmd fun j hj => readCmd_of_cmdRead ?_
    rw [hbytes (1 + j) (by rw [List.length_cons]; omega), Nat.add_comm 1 j]
    simp [windowByte, hj]
  simp only [fetchWindow, hopcode, ← hlen, hoperands]

end Fetch

/-- Settles O11: what decodes with nothing left over is the window that the step fetches. -/
theorem stepRunsDecoded : Obligations.StepRunsDecoded := by
  intro s W i hturn hp hd hbytes hdecode
  obtain ⟨b0, operands, hW, hlen, -⟩ := decode_eq_ok_iff.1 hdecode
  rw [List.append_nil] at hW
  subst hW
  rw [step_decoding hturn hp hd]
  exact stepDecode_of_fetched (s := popTurn s) (fetchWindow_of_cmdRead hbytes hlen) hdecode

/-! ## The fetch: the first byte that cannot be read -/

section Unread

variable {s : State}

theorem readCmd_pastBank {i : Nat} (h : s.launch.prof.bankSize ≤ s.cmdOff + i) : readCmd s i = .error .cmdPastBank :=
  if_pos h

theorem readCmd_missing {i : Nat} (hin : s.cmdOff + i < s.launch.prof.bankSize)
    (habsent : cmdRead s s.cmdBank (s.cmdOff + i) = none) : readCmd s i = .error .cmdMissing := by
  simp only [readCmd, Nat.not_le.2 hin, if_false, habsent]

/-- Of the operand bytes, the first that cannot be read decides (42_stream_control R124). -/
theorem readOperands_error {i m n : Nat} {code : FaultCode} (hm : m < n)
    (hread : ∀ j < m, ∃ b, readCmd s (i + j) = .ok b) (herror : readCmd s (i + m) = .error code) :
    readOperands s i n = .error code := by
  induction m generalizing i n with
  | zero =>
    obtain ⟨n, rfl⟩ := Nat.exists_eq_add_of_lt hm
    rw [Nat.zero_add]
    rw [Nat.add_zero] at herror
    simp only [readOperands, herror]
  | succ m ih =>
    obtain ⟨n, rfl⟩ := Nat.exists_eq_succ_of_ne_zero (Nat.ne_zero_of_lt hm)
    obtain ⟨b, hb⟩ := hread 0 (Nat.succ_pos m)
    have hrest : readOperands s (i + 1) n = .error code := by
      refine ih (Nat.lt_of_succ_lt_succ hm) (fun j hj => ?_) ?_
      · rw [Nat.add_right_comm]
        exact hread (j + 1) (Nat.succ_lt_succ hj)
      · rwa [Nat.add_right_comm]
    rw [Nat.add_zero] at hb
    simp only [readOperands, hb, hrest]

/-- An opcode byte that cannot be read faults, and is not recorded (60_exceptions R160). -/
theorem stepDecode_opcodeFault {code : FaultCode} (herror : readCmd s 0 = .error code)
    (habsent : cmdRead s s.cmdBank s.cmdOff = none) : stepDecode s = .next (raiseFault code none s) := by
  simp only [stepDecode, fetchWindow, herror, raiseAtInstr, opcodeByte, habsent]

/-- An operand byte that cannot be read faults with the opcode byte recorded. -/
theorem stepDecode_operandFault {b0 : Byte} {n : Nat} {code : FaultCode} (hb0 : cmdRead s s.cmdBank s.cmdOff = some b0)
    (hpos : 1 ≤ n) (hn : n ≤ operandCount (classOf s.launch.prof b0))
    (hread : ∀ j < n, (cmdRead s s.cmdBank (s.cmdOff + j)).isSome = true) (herror : readCmd s n = .error code) :
    stepDecode s = .next (raiseFault code (some b0) s) := by
  obtain ⟨m, rfl⟩ := Nat.exists_eq_add_of_le hpos
  have hopcode : readCmd s 0 = .ok b0 := readCmd_of_cmdRead hb0
  have hoperands : readOperands s 1 (operandCount (classOf s.launch.prof b0)) = .error code := by
    refine readOperands_error (m := m) (by omega) (fun j hj => ?_) herror
    obtain ⟨b, hb⟩ := Option.isSome_iff_exists.1 (hread (1 + j) (by omega))
    exact ⟨b, readCmd_of_cmdRead hb⟩
  simp only [stepDecode, fetchWindow, hopcode, hoperands, raiseAtInstr, opcodeByte, hb0]

end Unread

/-- Settles O12: the opcode byte past the bank and absent, then an operand byte past the bank and absent. -/
theorem fetchFaults : Obligations.FetchFaults := by
  intro s hturn hp hd
  rw [step_decoding hturn hp hd]
  refine ⟨fun hpast => ?_, fun hin habsent => ?_, fun b0 n hb0 hpos hn hread => ⟨fun hpast => ?_, fun hin habsent => ?_⟩⟩
  · exact stepDecode_opcodeFault (s := popTurn s) (readCmd_pastBank hpast) (romRead_outside _ _ (.inr hpast))
  · exact stepDecode_opcodeFault (s := popTurn s) (readCmd_missing hin habsent) habsent
  · exact stepDecode_operandFault (s := popTurn s) hb0 hpos hn hread (readCmd_pastBank hpast)
  · exact stepDecode_operandFault (s := popTurn s) hb0 hpos hn hread (readCmd_missing hin habsent)

/-! ## The reserved opcodes -/

/-- The three reserved rows of 30_encoding table E-1. -/
def ReservedClass (cls : OpClass) : Prop := cls = .reservedC0 ∨ cls = .reservedE0 ∨ cls = .reservedF4

theorem ReservedClass.operandCount_eq_zero {cls : OpClass} (h : ReservedClass cls) : operandCount cls = 0 := by
  rcases h with rfl | rfl | rfl <;> rfl

theorem exec_reserved {i : Instr} (h : ReservedClass (classOfInstr i)) (s : State) :
    exec i s = .next (raiseAtInstr .reservedOpcode s) := by
  cases i with
  | reservedC0 b0 | reservedE0 b0 | reservedF4 b0 => rfl
  | pla | plb | put | bank | borda | bordb | eos | eof => rcases h with h | h | h <;> cases h

/-- The bytes of the reserved rows under the reference map, byte by byte (30_encoding R66). -/
theorem reservedClass_of_range {p : Profile} (h : p.isReference) {b0 : Byte}
    (hrange : 0xC0 ≤ b0.toNat ∧ b0.toNat ≤ 0xEF ∨ 0xF4 ≤ b0.toNat ∧ b0.toNat ≤ 0xF7) :
    ReservedClass (classOf p b0) := by
  rw [classOf, opmap_reference h]
  unfold ReservedClass
  revert b0
  decide +kernel

/-- An opcode byte of a reserved class is a whole instruction (30_encoding R66). -/
theorem decode_reserved {p : Profile} {b0 : Byte} (h : ReservedClass (classOf p b0)) :
    decode p [b0] = .ok (decodeWindow p (classOf p b0) [b0], []) :=
  decode_eq_ok_iff.2 ⟨b0, [], rfl, h.operandCount_eq_zero.symm, rfl⟩

/-- Settles O29: the step runs what the opcode byte alone decodes to, so the bytes after it do not matter. -/
theorem reservedFaults : Obligations.ReservedFaults := by
  refine ⟨fun s b0 => ⟨exec_reserved (.inl rfl) s, exec_reserved (.inr (.inl rfl)) s, exec_reserved (.inr (.inr rfl)) s⟩,
    fun s b0 href hturn hp hd hb0 hrange => ?_⟩
  have hclass := reservedClass_of_range href hrange
  have hbytes : ∀ j < [b0].length, cmdRead s s.cmdBank (s.cmdOff + j) = [b0][j]? := fun j hj => by
    obtain rfl : j = 0 := Nat.lt_one_iff.1 hj
    exact hb0
  have hop : opcodeByte (popTurn s) = some b0 := hb0
  rw [stepRunsDecoded s [b0] _ hturn hp hd hbytes (decode_reserved hclass),
    exec_reserved (by rwa [classOfInstr_decodeWindow]), raiseAtInstr_eq, hop]
  rfl

end Sys2Proof.Machine
end

section
/-! The flip controller and the governor (43_flip_governor), step by step: the waiting phases (O32, O36), the consuming
phases (O33, O36), the host request (O35), the flip (O34), and where `PHASE` can go (O40). -/

namespace Sys2Proof.Machine

/-! ## The waiting phases (R143) -/

section Waiting

variable {s : State} {k : Budget} (hb : s.budget = some k)
include hb

theorem waitForBudget_reached (hk : k.toNat ≤ s.tick.toNat) (critical : Phase) :
    waitForBudget critical s = { s with tickMasked := true, phase := critical } := by
  simp [waitForBudget, hb, waitReady, hk]

theorem waitForBudget_short (hk : s.tick.toNat < k.toNat) (critical : Phase) : waitForBudget critical s = s :=
  waitForBudget_hold critical (by simpa [hb, waitReady] using hk)

end Waiting

/-- Settles O32: no budget, the budget reached, and the budget not yet reached. -/
theorem waitingStep : Obligations.WaitingStep := by
  intro s hp
  have hstep (hturn : EngineTurn s) : step s = .next (stepWait (popTurn s)) :=
    (step_of_engineTurn hturn).trans (engineStep_waiting (s := popTurn s) hp)
  refine ⟨fun hb hturn => ?_, fun k hb hk hturn => ?_, fun k rest hb hk ha => ?_⟩
  · rw [hstep hturn, stepWait, waitForBudget_unwritten (s := popTurn s) hb]
  · rw [hstep hturn, stepWait, waitForBudget_reached (s := popTurn s) hb hk]
  · rw [hstep (.inr ⟨rest, ha⟩), stepWait, waitForBudget_short (s := popTurn s) hb hk]

/-! ## The consuming phases (R144) -/

/-- A budget that is covered is subtracted exactly. -/
theorem consumeBudget_covered {s : State} {k : Budget} (hb : s.budget = some k) (hk : k.toNat ≤ s.tick.toNat)
    (after : Phase) : ∃ tick : Tick, tick.toNat = s.tick.toNat - k.toNat ∧
      consumeBudget after s = { s with tick := tick, tickMasked := false, phase := after } :=
  ⟨consumedTick s.tick k, consumedTick_toNat hk, by simp only [consumeBudget, hb]⟩

/-- Settles O33: the budget is covered. -/
theorem consumingStep : Obligations.ConsumingStep := by
  intro s k hp hturn hb hk
  obtain ⟨tick, htick, e⟩ := consumeBudget_covered (s := popTurn s) hb hk .flipping
  have hstep := (step_of_engineTurn hturn).trans (engineStep_consuming (s := popTurn s) hp)
  rw [stepConsume, e] at hstep
  exact ⟨_, hstep, htick, rfl⟩

/-- Settles O36, by the lemmas of the frame's own wait and consumption. -/
theorem hostWaitSteps : Obligations.HostWaitSteps := by
  refine ⟨fun s k hp hb => ?_, fun s k hp hturn hb hk => ?_⟩
  · have hstep (hturn : EngineTurn s) : step s = .next (stepHostWait (popTurn s)) :=
      (step_of_engineTurn hturn).trans (engineStep_hostWaiting (s := popTurn s) hp)
    refine ⟨fun hk hturn => ?_, fun rest hk ha => ?_⟩
    · rw [hstep hturn, stepHostWait, waitForBudget_reached (s := popTurn s) hb hk]
    · rw [hstep (.inr ⟨rest, ha⟩), stepHostWait, waitForBudget_short (s := popTurn s) hb hk]
  · obtain ⟨tick, htick, e⟩ := consumeBudget_covered (s := popTurn s) hb hk .done
    have hstep := (step_of_engineTurn hturn).trans (engineStep_hostConsuming (s := popTurn s) hp)
    rw [stepHostConsume, e] at hstep
    exact ⟨_, hstep, htick, rfl⟩

/-! ## The host request (R152) -/

/-- The Engine's turn in Done with a request outstanding accepts it. -/
theorem engineStep_hostReq {s : State} {k : BitVec 4} (hp : s.phase = .done) (hk : s.hostReq = some k) :
    engineStep s = .next { s with budget := some (k.setWidth 3), hostReq := none, phase := .hostWaiting } := by
  simp [engineStep, engineEnabled, stepHostAccept, hp, hk]

/-- The 3 bits of the budget hold every request the Host may place (log 11). -/
theorem toNat_setWidth_hostReq {k : BitVec 4} (hk : k.toNat ≤ 7) : (k.setWidth 3 : Budget).toNat = k.toNat := by
  rw [BitVec.toNat_setWidth]
  exact Nat.mod_eq_of_lt (Nat.lt_succ_of_le hk)

/-- Settles O35: the Host's turn, then the Engine's. -/
theorem hostRequestInDone : Obligations.HostRequestInDone := by
  refine ⟨fun s k rest ha => ?_, fun s k hp hturn hreq hk => ⟨k.setWidth 3, toNat_setWidth_hostReq hk, ?_⟩⟩
  · have hstep : step s = hostWait k (popTurn s) := step_of_turn ha
    rw [hstep]
    rcases hostWait_cases k (popTurn s) with ⟨hp, hreq, hk, e⟩ | ⟨hout, e⟩
    · exact ⟨fun _ => e, fun hout => absurd ⟨hp, hreq, hk⟩ hout⟩
    · exact ⟨fun hin => absurd hin hout, fun _ => e⟩
  · rw [step_of_engineTurn hturn]
    exact engineStep_hostReq (s := popTurn s) hp hreq

/-! ## The flip (R145 to R147) -/

theorem step_flipping {s : State} (hturn : EngineTurn s) (hp : s.phase = .flipping) (hd : s.displayOnly = false) :
    step s = .next (stepFlip (popTurn s)) := by
  rw [step_of_engineTurn hturn]
  simp [engineStep, engineEnabled, popTurn, hp, hd]

theorem BufSel.eq_other_of_ne {i j : BufSel} (h : i ≠ j) : i = j.other := by
  cases i with
  | fb0 => cases j with
    | fb0 => exact absurd rfl h
    | fb1 => rfl
  | fb1 => cases j with
    | fb0 => rfl
    | fb1 => exact absurd rfl h

/-- After the flip both buffers read as the one just built, which is now current: the clone is what the other one reads. -/
theorem cellAt_stepFlip (s : State) (i : BufSel) (c : Nat) : cellAt (stepFlip s) i c = cellAt s s.curSel.other c := by
  by_cases hi : i = nextSel (flipBuffers s)
  · subst hi
    exact congrArg (readCell · c) (Memory.fb_setFb_same ..)
  · obtain rfl : i = s.curSel.other := BufSel.eq_other_of_ne fun hcur => hi (hcur.trans (BufSel.other_other _).symm)
    exact congrArg (readCell · c) (Memory.fb_setFb_ne s.mem hi _)

/-- Settles O34: the cells by `cellAt_stepFlip`, the rest by the definition of the flip. -/
theorem flippingStep : Obligations.FlippingStep := by
  intro s hp hd hturn
  refine ⟨_, step_flipping hturn hp hd, cellAt_stepFlip (popTurn s), ⟨Memory.setFb_tile _ _ _, Memory.setFb_cmdRom _ _ _,
    Memory.setFb_assetRom _ _ _⟩, ?_⟩
  cases hborder : s.pendingBorder <;> simp [stepFlip, beginFrame, flipBuffers, moveCursor, clearSignal, popTurn, hborder]

/-! ## Where `PHASE` can go (R140) -/

/-- An instruction leaves Decoding only by EOF, EOS or a fault. -/
theorem exec_phase {i : Instr} {s t : State} (h : exec i s = .next t) :
    t.phase ∈ [s.phase, .waiting, .done, .faulted] := by
  rcases exec_cases h with ⟨code, -, rfl⟩ | ⟨pos, tile, -, -, rfl⟩ | ⟨tile, -, -, rfl⟩ |
    ⟨pos, tile, abank, aoff, block, -, -, -, -, -, rfl⟩ | ⟨-, -, rfl⟩ | ⟨-, rfl⟩ | ⟨-, rfl⟩ | ⟨-, rfl⟩ | ⟨k, -, rfl⟩
  · simp [raiseAtInstr]
  · simp [placed]
  · simp [placed]
  · simp [placedFetched]
  · simp
  · simp
  · simp
  · simp
  · simp

theorem stepDecode_phase {s t : State} (hp : s.phase = .decoding) (h : stepDecode s = .next t) :
    t.phase ∈ [Phase.decoding, .waiting, .done, .faulted] := by
  rcases stepDecode_exec h with ⟨code, rfl⟩ | ⟨i, -, he⟩
  · simp [raiseAtInstr]
  · rw [← hp]
    exact exec_phase he

theorem waitForBudget_phase {s : State} {wait : Phase} (hp : s.phase = wait) (critical : Phase) :
    (waitForBudget critical s).phase ∈ [wait, critical, .faulted] := by
  rcases waitForBudget_cases critical s with ⟨-, e⟩ | ⟨k, -, -, e⟩ | ⟨k, -, -, e⟩ <;> simp [e, hp]

theorem consumeBudget_phase (after : Phase) (s : State) : (consumeBudget after s).phase ∈ [after, .faulted] := by
  rcases consumeBudget_cases after s with ⟨-, e⟩ | ⟨k, -, e⟩ <;> simp [e]

/-- The phases in which the Engine may be without a step, with `DISPLAY_ONLY` as the phase says (R140, R142, R151). -/
theorem phase_of_not_enabled {s : State} (hd : s.displayOnly = s.phase.afterStream) (h : engineEnabled s = false) :
    s.phase = .waiting ∨ s.phase = .done ∨ s.phase = .hostWaiting ∨ s.phase = .faulted := by
  cases hp : s.phase with
  | waiting | done | hostWaiting | faulted => decide
  | consuming | hostConsuming => simp [engineEnabled, hp] at h
  | decoding | flipping => simp [engineEnabled, hp, hd, Phase.afterStream] at h

/-- Settles O40: a hold keeps the phase, and each phase's own step moves it as its lemma says. -/
theorem phaseTransitions : Obligations.PhaseTransitions := by
  intro s t hd hturn hstep
  have hpop : s.phase = (popTurn s).phase := rfl
  rw [step_of_engineTurn hturn] at hstep
  rw [hpop]
  rcases engineStep_cases hstep with ⟨hidle, rfl⟩ | ⟨hp, -, hdecode⟩ | ⟨hp, rfl⟩ | ⟨hp, rfl⟩ | ⟨hp, -, rfl⟩ |
    ⟨hp, k, -, rfl⟩ | ⟨hp, rfl⟩ | ⟨hp, rfl⟩
  · rcases phase_of_not_enabled (s := popTurn s) hd hidle with hp | hp | hp | hp <;> simp [hp]
  · rw [hp]
    exact stepDecode_phase hp hdecode
  · rw [hp]
    exact waitForBudget_phase hp .consuming
  · rw [hp]
    exact consumeBudget_phase .flipping _
  · rw [hp]
    exact List.mem_singleton.2 rfl
  · simp [hp]
  · rw [hp]
    exact waitForBudget_phase hp .hostConsuming
  · rw [hp]
    exact consumeBudget_phase .done _

end Sys2Proof.Machine
end

section
/-! Runs of the governor over several turns (43_flip_governor): the wait of a budget (O38), and a frame that holds nothing
but its EOF (O39). -/

namespace Sys2Proof.Machine

/-! ## Runs -/

theorem run_add {m : Nat} {s u : State} (h : run m s = .next u) (n : Nat) : run (m + n) s = run n u := by
  induction m generalizing s with
  | zero => cases h; rw [Nat.zero_add]
  | succ m ih =>
    simp only [run] at h
    split at h
    · rw [Nat.add_right_comm, run_succ _ ‹_›]
      exact ih h
    · cases h
    · cases h

/-- What every step keeps that does not begin in a `stop` state holds after a run that meets no `stop` state before its
end. -/
theorem run_preserves {P stop : State → Prop} (hkeep : ∀ v w, P v → ¬ stop v → step v = .next w → P w) {n : Nat}
    {s u : State} (hs : P s) (hrun : run n s = .next u) (hbefore : ∀ m < n, ∀ v, run m s = .next v → ¬ stop v) : P u := by
  induction n generalizing s with
  | zero => cases hrun; exact hs
  | succ n ih =>
    simp only [run] at hrun
    split at hrun
    · next v hstep =>
      refine ih (hkeep s v hs (hbefore 0 (Nat.succ_pos n) s rfl) hstep) hrun fun m hm w hw => ?_
      exact hbefore (m + 1) (Nat.succ_lt_succ hm) w ((run_succ m hstep).trans hw)
    · cases hrun
    · cases hrun

/-! ## The wait of a budget (R148) -/

section Wait

variable {s : State} {k : Budget} {rest : List Turn} (hp : s.phase = .waiting) (hb : s.budget = some k)
include hp hb

/-- One held turn and one tick. -/
theorem run_hold_tick (hm : s.tickMasked = false) (hk : s.tick.toNat < k.toNat) (ha : s.agenda = .engine :: .tick :: rest) :
    run 2 s = .next { s with tick := s.tick + 1, agenda := rest } := by
  obtain ⟨-, -, hhold⟩ := waitingStep s hp
  have hheld : (popTurn s).agenda = .tick :: rest := congrArg List.tail ha
  have htick : step (popTurn s) = .next { s with tick := s.tick + 1, agenda := rest } := by
    rw [step_of_turn hheld]
    simp [takeTurn, tickEvent, popTurn, hm, ha]
  rw [run_succ 1 (hhold k _ hb hk ha), run_succ 0 htick, run]

/-- The budget reached: the step that masks and the step that consumes. -/
theorem run_mask_consume (hk : k.toNat ≤ s.tick.toNat) (hturn : EngineTurn s)
    (hnext : EngineTurn { popTurn s with tickMasked := true, phase := .consuming }) :
    ∃ tick : Tick, tick.toNat = s.tick.toNat - k.toNat ∧ run 2 s = .next { s with
      tick := tick, tickMasked := false, phase := .flipping, agenda := s.agenda.tail.tail } := by
  obtain ⟨-, hmask, -⟩ := waitingStep s hp
  obtain ⟨t, hconsume, htick, ht⟩ := consumingStep { popTurn s with tickMasked := true, phase := .consuming } k rfl hnext
    hb hk
  refine ⟨t.tick, htick, ?_⟩
  rw [run_succ 1 (hmask k hb hk hturn), run_succ 0 hconsume, run, ht]
  rfl

end Wait

/-- `m` rounds of a held turn and a tick, as long as the budget is not reached before the last tick. -/
theorem run_rounds {k : Budget} {rest : List Turn} {m : Nat} {s : State} (hp : s.phase = .waiting) (hb : s.budget = some k)
    (hm : s.tickMasked = false) (hk : s.tick.toNat + m ≤ k.toNat)
    (ha : s.agenda = (List.replicate m [Turn.engine, Turn.tick]).flatten ++ rest) :
    ∃ tick : Tick, tick.toNat = s.tick.toNat + m ∧ run (2 * m) s = .next { s with tick := tick, agenda := rest } := by
  induction m generalizing s with
  | zero => exact ⟨s.tick, rfl, congrArg Host.Outcome.next (by rw [← show s.agenda = rest from ha])⟩
  | succ m ih =>
    have hcount : (s.tick + 1).toNat = s.tick.toNat + 1 := by bv_omega
    obtain ⟨tick, htick, hrun⟩ := ih (s := { s with
      tick := s.tick + 1, agenda := (List.replicate m [Turn.engine, Turn.tick]).flatten ++ rest }) hp hb hm
      (by simp only [hcount]; omega) rfl
    refine ⟨tick, by simp only [htick, hcount]; omega, ?_⟩
    rw [Nat.mul_succ, Nat.add_comm]
    exact (run_add (run_hold_tick hp hb hm (by omega) ha) (2 * m)).trans hrun

/-- Settles O38: the rounds before the budget is reached, and the two steps after it. -/
theorem budgetLaw : Obligations.BudgetLaw := by
  intro s k n rest hp hb hmask hk ha
  refine ⟨fun m hm => ?_, ?_⟩
  · obtain ⟨j, rfl⟩ := Nat.exists_eq_add_of_le hm
    rw [List.replicate_add, List.flatten_append, List.append_assoc] at ha
    obtain ⟨tick, htick, hrun⟩ := run_rounds hp hb hmask (by omega) ha
    exact ⟨_, hrun, hp, htick⟩
  · obtain ⟨tick, htick, hrun⟩ := run_rounds hp hb hmask hk.le ha
    have hreached : tick.toNat = k.toNat := htick.trans hk
    obtain ⟨left, hleft, hend⟩ := run_mask_consume (s := { s with tick := tick, agenda := .engine :: .engine :: rest })
      hp hb hreached.ge (.inr ⟨_, rfl⟩) (.inr ⟨rest, rfl⟩)
    have hzero : left = 0 := BitVec.eq_of_toNat_eq (hleft.trans (Nat.sub_eq_zero_of_le hreached.le))
    exact ⟨_, (run_add hrun 2).trans hend, by rw [hzero, ← hmask]; rfl⟩

/-! ## The turns of the other agents -/

/-- `t` is `s` with one turn taken off the agenda and at most the tick counted or latched. -/
def OnlyTicks (s t : State) : Prop := t = { popTurn s with tick := t.tick, tickPending := t.tickPending }

section OnlyTicks

variable {s t : State} (h : OnlyTicks s t)
include h

theorem OnlyTicks.phase : t.phase = s.phase := (congrArg State.phase h :)

theorem OnlyTicks.budget : t.budget = s.budget := (congrArg State.budget h :)

theorem OnlyTicks.agenda : t.agenda = s.agenda.tail := (congrArg State.agenda h :)

theorem OnlyTicks.timingOnly : TimingOnly s t := by
  rw [h]
  rfl

end OnlyTicks

/-- Outside Done, with no reset next, a step counts at most a tick, or is the Engine's (60_exceptions R167). -/
theorem step_onlyTicks_or_engine {s t : State} (hr : NotReset s) (hp : s.phase ≠ .done) (h : step s = .next t) :
    OnlyTicks s t ∨ EngineTurn s ∧ engineStep (popTurn s) = .next t := by
  rcases step_cases h with hengine | rfl | rfl | ⟨k, hdone, -⟩ | ⟨⟨rest, ha⟩, -⟩
  · exact .inr hengine
  · rcases tickEvent_cases (popTurn s) with ⟨-, e⟩ | ⟨-, e⟩ <;> exact .inl (by rw [e]; rfl)
  · rcases deliverTick_cases (popTurn s) with ⟨-, e⟩ | ⟨-, e⟩ <;> exact .inl (by rw [e]; rfl)
  · exact absurd hdone hp
  · exact absurd ha (hr rest)

theorem notReset_of_not_mem {s : State} (h : Turn.hostReset ∉ s.agenda) : NotReset s :=
  fun rest ha => h (by simp [ha])

/-! ## From EOF to the flip -/

/-- The Engine may decode, and the byte at the command position is the EOF `b0`. -/
structure AtEof (s : State) (b0 : Byte) : Prop where
  displayOnly : s.displayOnly = false
  fetched : cmdRead s s.cmdBank s.cmdOff = some b0
  endFrame : classOf s.launch.prof b0 = .endFrame

/-- The state past the EOF, but for the timing registers (42_stream_control R131). -/
def pastEof (s : State) : State := signalMoreFrames (advanceOff .endFrame s)

/-- The Engine's turn at an EOF. -/
theorem AtEof.step_eq {s : State} {b0 : Byte} (h : AtEof s b0) (hturn : EngineTurn s) (hp : s.phase = .decoding) :
    step s = .next (awaitBudget (budgetOf b0) (pastEof (popTurn s))) := by
  have hbytes : ∀ j < [b0].length, cmdRead s s.cmdBank (s.cmdOff + j) = [b0][j]? := fun j hj => by
    obtain rfl : j = 0 := Nat.lt_one_iff.1 hj
    exact h.fetched
  exact stepRunsDecoded s [b0] _ hturn hp h.displayOnly hbytes (decode_window (cls := .endFrame) ⟨rfl, h.endFrame⟩)

/-- Between EOF and the flip, with a budget written, the Engine's step stays there and writes timing registers alone. -/
theorem engineStep_betweenFrames {s t : State} (hp : s.phase.betweenFrames = true) (hflip : s.phase ≠ .flipping)
    (hb : s.budget.isSome = true) (h : engineStep s = .next t) :
    t.phase.betweenFrames = true ∧ t.budget = s.budget ∧ t.agenda = s.agenda ∧ TimingOnly s t := by
  have hbudget : s.budget ≠ none := Option.isSome_iff_ne_none.1 hb
  cases hphase : s.phase with
  | waiting =>
    rw [engineStep_waiting hphase] at h
    cases h
    rcases waitForBudget_cases .consuming s with ⟨hnone, -⟩ | ⟨k, -, -, e⟩ | ⟨k, -, -, e⟩
    · exact absurd hnone hbudget
    · rw [stepWait, e]
      exact ⟨rfl, rfl, rfl, rfl⟩
    · rw [stepWait, e]
      exact ⟨hp, rfl, rfl, rfl⟩
  | consuming =>
    rw [engineStep_consuming hphase] at h
    cases h
    rcases consumeBudget_cases .flipping s with ⟨hnone, -⟩ | ⟨k, -, e⟩
    · exact absurd hnone hbudget
    · rw [stepConsume, e]
      exact ⟨rfl, rfl, rfl, rfl⟩
  | flipping => exact absurd hphase hflip
  | decoding | done | hostWaiting | hostConsuming | faulted => simp [hphase, Phase.betweenFrames] at hp

theorem TimingOnly.trans {s t u : State} (hst : TimingOnly s t) (htu : TimingOnly t u) : TimingOnly s u :=
  Eq.trans htu (congrArg (fun v : State => { v with
    phase := u.phase, budget := u.budget, tick := u.tick, tickMasked := u.tickMasked, tickPending := u.tickPending,
    fault := u.fault, hostReq := u.hostReq, agenda := u.agenda }) hst)

theorem TimingOnly.awaitBudget_pastEof {s t : State} (h : TimingOnly s t) (k : Budget) :
    TimingOnly (pastEof s) (awaitBudget k (pastEof (popTurn t))) :=
  congrArg (fun v => awaitBudget k (pastEof (popTurn v))) h

theorem TimingOnly.atEof {s t : State} {b0 : Byte} (h : TimingOnly s t) (hs : AtEof s b0) : AtEof t b0 :=
  (congrArg (AtEof · b0) h).mpr ⟨hs.displayOnly, hs.fetched, hs.endFrame⟩

/-! ## A frame that holds nothing but its EOF (R150) -/

/-- `u` is a state of the frame that begins in `s` with an EOF, before its flip: only timing registers have changed, but for
what the EOF does once it is decoded; and no reset is to come. -/
def InEmptyFrame (s u : State) : Prop :=
  Turn.hostReset ∉ u.agenda ∧
    (u.phase = .decoding ∧ TimingOnly s u ∨
      u.phase.betweenFrames = true ∧ u.budget.isSome = true ∧ TimingOnly (pastEof s) u)

/-- The next step is a flip. -/
def FlipsNext (s : State) : Prop := s.phase = .flipping ∧ EngineTurn s

/-- The frame has ended in Decoding past its EOF, and the picture of `s` is displayed. -/
def EmptyFrameShown (s t : State) : Prop :=
  t.phase = .decoding ∧ t.cmdOff = s.cmdOff + 1 ∧ (∀ c, displayedCell t c = displayedCell s c) ∧
    (s.pendingBorder = none → displayedBorder t = displayedBorder s)

section EmptyFrame

variable {s u : State} {b0 : Byte} (he : AtEof s b0)
include he

theorem InEmptyFrame.of_step {t : State} (h : InEmptyFrame s u) (hflip : ¬ FlipsNext u) (hstep : step u = .next t) :
    InEmptyFrame s t := by
  obtain ⟨hreset, hu⟩ := h
  have htail : Turn.hostReset ∉ u.agenda.tail := fun hmem => hreset (List.mem_of_mem_tail hmem)
  have hdone : u.phase ≠ .done := by
    rcases hu with ⟨hp, -⟩ | ⟨hp, -⟩ <;> intro hdone <;> simp [hdone, Phase.betweenFrames] at hp
  rcases step_onlyTicks_or_engine (notReset_of_not_mem hreset) hdone hstep with hticks | ⟨hturn, hengine⟩
  · refine ⟨hticks.agenda ▸ htail, ?_⟩
    rw [hticks.phase, hticks.budget]
    rcases hu with ⟨hp, htiming⟩ | ⟨hp, hb, htiming⟩
    · exact .inl ⟨hp, htiming.trans hticks.timingOnly⟩
    · exact .inr ⟨hp, hb, htiming.trans hticks.timingOnly⟩
  · rcases hu with ⟨hp, htiming⟩ | ⟨hp, hb, htiming⟩
    · rw [(htiming.atEof he).step_eq hturn hp] at hstep
      cases hstep
      exact ⟨htail, .inr ⟨rfl, rfl, htiming.awaitBudget_pastEof _⟩⟩
    · obtain ⟨hpt, hbt, hagenda, htimingt⟩ :=
        engineStep_betweenFrames (s := popTurn u) hp (fun hf => hflip ⟨hf, hturn⟩) hb hengine
      exact ⟨hagenda ▸ htail, .inr ⟨hpt, hbt ▸ hb, htiming.trans (show TimingOnly u t from htimingt)⟩⟩

/-- With equal buffers the flip that ends the frame displays what was displayed. -/
theorem InEmptyFrame.flip (hcells : ∀ c, cellAt s .fb0 c = cellAt s .fb1 c) (h : InEmptyFrame s u) (hflip : FlipsNext u) :
    ∃ t, step u = .next t ∧ EmptyFrameShown s t := by
  obtain ⟨hp, hturn⟩ := hflip
  obtain ⟨-, ⟨hdecoding, -⟩ | ⟨-, -, htiming⟩⟩ := h
  · simp [hp] at hdecoding
  have heq (i j : BufSel) (c : Nat) : cellAt s i c = cellAt s j c := by
    cases i <;> cases j <;> simp only [hcells]
  have hcell (i : BufSel) (c : Nat) : cellAt (stepFlip (popTurn u)) i c = cellAt s s.dispActive c :=
    calc cellAt (stepFlip (popTurn u)) i c = cellAt u u.curSel.other c := cellAt_stepFlip (popTurn u) i c
      _ = cellAt s u.curSel.other c := congrArg (fun m : Memory => readCell (m.fb u.curSel.other) c) htiming.mem
      _ = cellAt s s.dispActive c := heq _ _ c
  have hlaunch : (stepFlip (popTurn u)).launch = s.launch := htiming.launch
  obtain ⟨-, -, hborder⟩ := htiming.display
  have hpending : u.pendingBorder = s.pendingBorder := (congrArg State.pendingBorder htiming :)
  refine ⟨_, step_flipping hturn hp (htiming.displayOnly.trans he.displayOnly), rfl, htiming.position.2, fun c => ?_,
    fun hnone => ?_⟩
  · rw [displayedCell, hlaunch, hcell, displayedCell]
  · calc displayedBorder (stepFlip (popTurn u)) = u.pendingBorder.getD u.dispBorder := rfl
      _ = u.dispBorder := by rw [hpending, hnone]; rfl
      _ = displayedBorder s := hborder

/-- With no turn named and the budget covered, three steps lead to the flip. -/
theorem AtEof.run_to_flip (hp : s.phase = .decoding) (ha : s.agenda = []) (hk : (budgetOf b0).toNat ≤ s.tick.toNat) :
    ∃ tick : Tick, run 3 s = .next { pastEof s with
      budget := some (budgetOf b0), tick := tick, tickMasked := false, phase := .flipping, agenda := [] } := by
  have hdecode := he.step_eq (.inl ⟨ha, by simp [engineEnabled, hp, he.displayOnly]⟩) hp
  have hwait : (awaitBudget (budgetOf b0) (pastEof (popTurn s))).agenda = [] := congrArg List.tail ha
  obtain ⟨tick, -, hrun⟩ := run_mask_consume (s := awaitBudget (budgetOf b0) (pastEof (popTurn s))) rfl rfl hk
    (.inl ⟨hwait, decide_eq_true hk⟩) (.inl ⟨congrArg List.tail hwait, rfl⟩)
  rw [hwait] at hrun
  exact ⟨tick, (run_succ 2 hdecode).trans hrun⟩

end EmptyFrame

/-- Settles O39: every step before the flip stays in the frame, and the flip of a state of the frame keeps the picture. -/
theorem emptyFrameKeepsPicture : Obligations.EmptyFrameKeepsPicture := by
  intro s b0 hp hd hreset _ hcells hb0 hcls
  have he : AtEof s b0 := ⟨hd, hb0, hcls⟩
  refine ⟨fun n u hrun hu hturn hfirst => ?_, fun ha hk => ?_⟩
  · have hframe : InEmptyFrame s u :=
      run_preserves (fun _ _ hv hflip => hv.of_step he hflip) ⟨hreset, .inl ⟨hp, rfl⟩⟩ hrun
        fun m hm v hv ⟨hvp, hvturn⟩ => hfirst m hm v hv hvp hvturn
    exact hframe.flip he hcells ⟨hu, hturn⟩
  · obtain ⟨tick, hrun⟩ := he.run_to_flip hp ha hk
    obtain ⟨t, hstep, hshown⟩ := InEmptyFrame.flip (u := { pastEof s with
      budget := some (budgetOf b0), tick := tick, tickMasked := false, phase := .flipping, agenda := [] }) he hcells
      ⟨List.not_mem_nil, .inr ⟨rfl, rfl, rfl⟩⟩ ⟨rfl, .inl ⟨rfl, congrArg (!·) hd⟩⟩
    exact ⟨t, (run_add hrun 1).trans (run_succ 0 hstep), hshown⟩

end Sys2Proof.Machine
end

section
/-! Exceptions and ticks (60_exceptions): the TickSource's turns (O41), faults, which are precise, and Faulted, which has no
Engine step (O13), and that every turn but a host wait request answers a next state (O14). -/

namespace Sys2Proof.Machine

/-! ## The TickSource's turns (R163 to R165) -/

theorem step_tick_unmasked {s : State} {rest : List Turn} (ha : s.agenda = .tick :: rest) (hm : s.tickMasked = false) :
    step s = .next { popTurn s with tick := s.tick + 1 } :=
  (step_of_turn ha).trans (congrArg _ (if_neg (Bool.eq_false_iff.1 hm)))

theorem step_tick_masked {s : State} {rest : List Turn} (ha : s.agenda = .tick :: rest) (hm : s.tickMasked = true) :
    step s = .next { popTurn s with tickPending := true } :=
  (step_of_turn ha).trans (congrArg _ (if_pos hm))

theorem step_deliver_enabled {s : State} {rest : List Turn} (ha : s.agenda = .deliver :: rest)
    (h : deliveryEnabled s = true) : step s = .next { popTurn s with tick := s.tick + 1, tickPending := false } :=
  (step_of_turn ha).trans (congrArg _ (if_pos h))

theorem step_deliver_idle {s : State} {rest : List Turn} (ha : s.agenda = .deliver :: rest)
    (h : deliveryEnabled s = false) : step s = .next (popTurn s) :=
  (step_of_turn ha).trans (congrArg _ (if_neg (Bool.eq_false_iff.1 h)))

/-- Counting a tick is modulo 2^16 (60_exceptions R163). -/
theorem toNat_nextTick (tick : Tick) : (tick + 1).toNat = (tick.toNat + 1) % 2 ^ 16 := BitVec.toNat_add tick 1

/-- Settles O41: a tick unmasked and masked, a delivery enabled and not. -/
theorem tickTurns : Obligations.TickTurns := by
  refine ⟨fun s rest ha => ⟨fun hm => ?_, step_tick_masked ha⟩,
    fun s rest ha => ⟨fun hlatched hm => ?_, fun hidle => step_deliver_idle ha ?_⟩⟩
  · exact ⟨_, step_tick_unmasked ha hm, rfl, toNat_nextTick s.tick⟩
  · exact ⟨_, step_deliver_enabled ha (by simp [deliveryEnabled, hlatched, hm]), rfl, toNat_nextTick s.tick⟩
  · rcases hidle with hnone | hmasked
    · simp [deliveryEnabled, hnone]
    · simp [deliveryEnabled, hmasked]

/-! ## How Faulted is entered (R160) -/

/-- A precise fault of `s`: raised at its instruction, or where it reads a `BUDGET` that nothing has written. -/
def FaultOf (s t : State) : Prop :=
  (∃ code, code ≠ .unwritten ∧ t = raiseAtInstr code s) ∨ t = raiseFault .unwritten none s

/-- What a precise fault records, and that it changes nothing else. -/
theorem FaultOf.record {s t : State} (h : FaultOf s t) : ∃ (code : FaultCode) (op : Option Byte),
    t = { s with phase := .faulted, fault := some ⟨code, s.cmdBank, s.cmdOff, op⟩ } ∧
      op = if code = .unwritten then none else cmdRead s s.cmdBank s.cmdOff := by
  rcases h with ⟨code, hcode, rfl⟩ | rfl
  · exact ⟨code, opcodeByte s, raiseAtInstr_eq code s, (if_neg hcode).symm⟩
  · exact ⟨.unwritten, none, rfl, rfl⟩

theorem waitForBudget_faultOf {s : State} {critical : Phase} (hp : s.phase ≠ .faulted) (hcritical : critical ≠ .faulted)
    (ht : (waitForBudget critical s).phase = .faulted) : FaultOf s (waitForBudget critical s) := by
  rcases waitForBudget_cases critical s with ⟨-, e⟩ | ⟨k, -, -, e⟩ | ⟨k, -, -, e⟩ <;> rw [e] at ht ⊢
  · exact .inr rfl
  · exact absurd ht hcritical
  · exact absurd ht hp

theorem consumeBudget_faultOf {s : State} {after : Phase} (hafter : after ≠ .faulted)
    (ht : (consumeBudget after s).phase = .faulted) : FaultOf s (consumeBudget after s) := by
  rcases consumeBudget_cases after s with ⟨-, e⟩ | ⟨k, -, e⟩ <;> rw [e] at ht ⊢
  · exact .inr rfl
  · exact absurd ht hafter

/-- The TickSource's turns keep the phase: it changes no Engine register (60_exceptions R166). -/
theorem tickEvent_phase (s : State) : (tickEvent s).phase = s.phase := by
  rcases tickEvent_cases s with ⟨-, e⟩ | ⟨-, e⟩ <;> rw [e]

theorem deliverTick_phase (s : State) : (deliverTick s).phase = s.phase := by
  rcases deliverTick_cases s with ⟨-, e⟩ | ⟨-, e⟩ <;> rw [e]

section Enters

variable {s t : State} (hp : s.phase ≠ .faulted) (ht : t.phase = .faulted)
include hp ht

/-- An instruction's effect leaves the phase, or makes it Waiting or Done. -/
theorem exec_faultOf {i : Instr} (h : exec i s = .next t) : FaultOf s t := by
  rcases exec_cases h with hfault | ⟨pos, tile, -, -, rfl⟩ | ⟨tile, -, -, rfl⟩ |
    ⟨pos, tile, abank, aoff, block, -, -, -, -, -, rfl⟩ | ⟨-, -, rfl⟩ | ⟨-, rfl⟩ | ⟨-, rfl⟩ | ⟨-, rfl⟩ | ⟨k, -, rfl⟩
  · exact .inl hfault
  · exact absurd ht hp
  · exact absurd ht hp
  · exact absurd ht hp
  · exact absurd ht hp
  · exact absurd ht hp
  · exact absurd ht hp
  · cases ht
  · cases ht

theorem stepDecode_faultOf (h : stepDecode s = .next t) : FaultOf s t := by
  rcases stepDecode_cases h with hfault | ⟨b0, operands, -, -, -, hexec⟩
  · exact .inl hfault
  · exact exec_faultOf hp ht hexec

/-- Of the Engine's steps, the Decoding step and those that read `BUDGET` can fault. -/
theorem engineStep_faultOf (h : engineStep s = .next t) : FaultOf s t := by
  rcases engineStep_cases h with ⟨-, rfl⟩ | ⟨-, -, hdecode⟩ | ⟨-, rfl⟩ | ⟨-, rfl⟩ | ⟨-, -, rfl⟩ | ⟨-, k, -, rfl⟩ |
    ⟨-, rfl⟩ | ⟨-, rfl⟩
  · exact absurd ht hp
  · exact stepDecode_faultOf hp ht hdecode
  · exact waitForBudget_faultOf hp nofun ht
  · exact consumeBudget_faultOf nofun ht
  · cases ht
  · cases ht
  · exact waitForBudget_faultOf hp nofun ht
  · exact consumeBudget_faultOf nofun ht

/-- Only the Engine's turn enters Faulted: the other agents keep the phase, but for reset, which decodes. -/
theorem step_faultOf (h : step s = .next t) : FaultOf (popTurn s) t := by
  rcases step_cases h with ⟨-, hengine⟩ | rfl | rfl | ⟨k, -, -, -, rfl⟩ | ⟨-, rfl⟩
  · exact engineStep_faultOf (s := popTurn s) hp ht hengine
  · exact absurd ((tickEvent_phase (popTurn s)).symm.trans ht) hp
  · exact absurd ((deliverTick_phase (popTurn s)).symm.trans ht) hp
  · exact absurd ht hp
  · cases ht

end Enters

/-! ## Faulted (R160) -/

theorem engineStep_of_faulted {s : State} (hp : s.phase = .faulted) : engineStep s = .next s := by
  simp [engineStep, engineEnabled, hp]

/-- In Faulted every turn but reset counts at most a tick. -/
theorem step_of_faulted {s t : State} (hp : s.phase = .faulted) (hr : NotReset s) (h : step s = .next t) :
    OnlyTicks s t := by
  rcases step_onlyTicks_or_engine hr (hp ▸ nofun) h with hticks | ⟨-, hengine⟩
  · exact hticks
  · rw [engineStep_of_faulted (s := popTurn s) hp] at hengine
    cases hengine
    rfl

/-- Settles O13: how Faulted is entered, what a turn there changes, and the Engine's and the TickSource's turns there. -/
theorem faultsArePreciseAndSticky : Obligations.FaultsArePreciseAndSticky := by
  refine ⟨fun s t hstep hp ht => (step_faultOf hp ht hstep).record, fun s t hstep hp hr => ?_, fun s rest hp ha => ?_,
    fun s rest hp ha hm => ⟨_, step_tick_unmasked ha hm, hp, rfl, rfl⟩⟩
  · have hticks := step_of_faulted hp hr hstep
    refine ⟨hticks, fun ⟨hdone, _⟩ => ?_⟩
    cases (hdone.symm.trans hticks.phase).trans hp
  · exact (step_of_turn ha).trans (engineStep_of_faulted (s := popTurn s) hp)

/-! ## Every turn answers (R169) -/

/-- Every instruction's end is an effect or a precise fault, which is a state too. -/
theorem exec_answers (i : Instr) (s : State) : ∃ t, exec i s = .next t := by
  cases i with
  | pla | plb | put | bank => exact settle_answers s _
  | borda | bordb | eos | eof | reservedC0 | reservedE0 | reservedF4 => exact ⟨_, rfl⟩

/-- What the Engine fetches always decodes, so the fault of the step function is never reached (log 6). -/
theorem stepDecode_answers (s : State) : ∃ t, stepDecode s = .next t := by
  cases hW : fetchWindow s with
  | error code => exact ⟨raiseAtInstr code s, by simp only [stepDecode, hW]⟩
  | ok W =>
    obtain ⟨i, hdecode⟩ := decode_fetched hW
    rw [stepDecode_of_fetched hW hdecode]
    exact exec_answers i s

theorem engineStep_answers (s : State) : ∃ t, engineStep s = .next t := by
  unfold engineStep
  split
  · cases s.phase with
    | decoding => exact stepDecode_answers s
    | waiting | consuming | flipping | done | hostWaiting | hostConsuming | faulted => exact ⟨_, rfl⟩
  · exact ⟨s, rfl⟩

theorem takeTurn_answers {turn : Turn} (h : ∀ k, turn ≠ .hostWait k) (s : State) : ∃ t, takeTurn turn s = .next t := by
  cases turn with
  | engine => exact engineStep_answers s
  | hostWait k => exact absurd rfl (h k)
  | tick | deliver | hostReset => exact ⟨_, rfl⟩

theorem defaultTurn_ne_hostWait (s : State) (k : Nat) : defaultTurn s ≠ .hostWait k := by
  unfold defaultTurn
  split <;> nofun

/-- Settles O14: the turn is the default one, or the agenda's next. -/
theorem everyTurnAnswers : Obligations.EveryTurnAnswers := by
  intro s hwait
  rw [step_eq]
  cases ha : s.agenda with
  | nil => exact takeTurn_answers (defaultTurn_ne_hostWait s) s
  | cons turn rest => exact takeTurn_answers (fun k hk => hwait k rest (hk ▸ ha)) _

end Sys2Proof.Machine
end

section
/-! The reset values (70_reset R180, R183; O42), and the picture that the instructions leave alone (70_reset R189, 20_memory
R50; O52). -/

namespace Sys2Proof.Machine

/-! ## The reset values (R180, R183) -/

/-- Reset lists no cell of either buffer, and an unlisted cell reads `EMPTY_CELL`. -/
theorem cellAt_hostReset (s : State) (i : BufSel) (c : Nat) : cellAt (hostReset s) i c = 0 := by
  cases i with
  | fb0 => rfl
  | fb1 => rfl

/-- Tile memory is no element of the reset table (R183), and the ROMs are constant (10_state R10). -/
theorem hostReset_sameTilesAndRoms (s : State) : SameTilesAndRoms s (hostReset s) := ⟨rfl, rfl, rfl⟩

/-- No phase guards the Host's reset (70_reset R183). -/
theorem step_hostReset {s : State} {rest : List Turn} (h : s.agenda = .hostReset :: rest) :
    step s = .next (hostReset (popTurn s)) :=
  step_of_turn h

/-- Settles O42: the registers are those of `State.resetWith`; then the buffers, tile memory and the ROMs. -/
theorem resetValues : Obligations.ResetValues := by
  intro s rest hagenda
  refine ⟨hostReset (popTurn s), step_hostReset hagenda, rfl, rfl, rfl, rfl, rfl, rfl, rfl, rfl, rfl, rfl, rfl, rfl, rfl,
    rfl, rfl, rfl, rfl, ?cells, ?tilesAndRoms, rfl⟩
  case cells => exact cellAt_hostReset (popTurn s)
  case tilesAndRoms => exact hostReset_sameTilesAndRoms (popTurn s)

/-! ## The displayed picture (R189) -/

/-- A displayed cell depends on the profile, on the buffer shown and on that buffer's cell alone. -/
theorem displayedCell_congr {s t : State} {c : Nat} (hlaunch : t.launch = s.launch) (hactive : t.dispActive = s.dispActive)
    (hcell : cellAt t s.dispActive c = cellAt s s.dispActive c) : displayedCell t c = displayedCell s c := by
  rw [displayedCell, hlaunch, hactive, hcell, displayedCell]

/-- Settles O52: no instruction writes a display output, and those that place a cell write the buffer that is not current,
so not the one shown. -/
theorem decodeKeepsPicture : Obligations.DecodeKeepsPicture := by
  intro i s t hshown hexec
  obtain ⟨⟨-, hactive, hborder⟩, -, -⟩ := exec_frame hexec
  obtain ⟨hmem, hlaunch⟩ := exec_mem_launch hexec
  have hcell (c : Nat) : cellAt t s.dispActive c = cellAt s s.dispActive c := by
    rw [hshown]
    exact hmem.keeps_current c
  exact ⟨fun c => displayedCell_congr hlaunch hactive (hcell c), hborder⟩

end Sys2Proof.Machine
end
